-- ==== Sys2Proof/Word.lean ====
section
/-! DEFINITION. The bit-vector types of CESC16: the 16-bit word of registers, addresses and data memory (R5, R8), the
32-bit word of program memory, which is also one whole instruction (R35, R60), and the register number (R20). -/

namespace Sys2Proof

/-- A 16-bit pattern: a register's contents, an address, a word of data memory (R5, R8). `+` and `-` wrap modulo 2^16. -/
abbrev Word := BitVec 16

/-- One 32-bit word of program memory, or one instruction `I` (R35, R60). -/
abbrev RomWord := BitVec 32

/-- A register number, the value of a 4-bit register field (R20). -/
abbrev Reg := Fin 16

/-- The number of the register that is hard-wired to zero (R21). -/
abbrev zeroReg : Reg := 0

/-- The number of the stack pointer (R22). -/
abbrev spReg : Reg := 1

/-- The number of addresses of either memory (R34, R35). -/
abbrev addressCount : Nat := 65536

end Sys2Proof
end

