-- ==== Sys2Proof/Syntax.lean ====
section
/-! DEFINITION. The syntax of CESC16: one constructor of `Instr` per row of spec/opcode_table.json (R70), with exactly
the operands its rule uses. A field the hardware ignores (an `X` field, the rA field of the four `mov` forms that do not
use it, R65) is no operand of the instruction. -/

namespace Sys2Proof

/-- The eight ALU operations, selected by `Funct` (R67, R110 to R117). -/
inductive AluOp where
  | mov | and | or | xor | add | sub | addc | subb
  deriving DecidableEq, Repr

/-- The eight jump conditions, selected by `Funct` (R68, R261). -/
inductive Cond where
  | jmp | jz | jnz | jc | jnc | jlt | jle | jleu
  deriving DecidableEq, Repr

/-- Which 16-bit half of a program-memory word `peek` reads: `W = 1` upper, `W = 0` lower (R44, R232). -/
inductive RomHalf where
  | upper | lower
  deriving DecidableEq, Repr

/-- Why the decoder answers "reserved" (R74): an opcode byte that selects no instruction (R72), or the constant field
`op[3:0]` holding another value than 0001 (R66). -/
inductive DecodeReject where
  /-- The high byte of the opcode word selects no instruction (R72). -/
  | unassignedOpcode
  /-- The format has the constant 0001 in `op[3:0]` and the word holds another value there (R66). -/
  | constantFieldNot0001
  deriving DecidableEq, Repr

/-- The 100 instructions, one constructor per row of the opcode table, in the order of R70. The suffix is the operand
form: `RR` register, `RI` immediate, `RD` direct, `RN` indirect, `RX` indexed source; `MD`, `MN`, `MX` direct, indirect,
indexed memory destination; `R` and `I` register and immediate for jumps, calls and pushes. Operands stand in the order
of the assembler syntax (R87). -/
inductive Instr where
  /-- `mov rD, rB`, ALU_RR (R120). -/
  | movRR (rD rB : Reg)
  /-- `and rD, rA, rB`, ALU_RR (R125). -/
  | andRR (rD rA rB : Reg)
  /-- `or rD, rA, rB`, ALU_RR (R130). -/
  | orRR (rD rA rB : Reg)
  /-- `xor rD, rA, rB`, ALU_RR (R135). -/
  | xorRR (rD rA rB : Reg)
  /-- `add rD, rA, rB`, ALU_RR (R140). -/
  | addRR (rD rA rB : Reg)
  /-- `sub rD, rA, rB`, ALU_RR (R145). -/
  | subRR (rD rA rB : Reg)
  /-- `addc rD, rA, rB`, ALU_RR (R150). -/
  | addcRR (rD rA rB : Reg)
  /-- `subb rD, rA, rB`, ALU_RR (R155). -/
  | subbRR (rD rA rB : Reg)
  /-- `mov rD, Imm16`, ALU_RI (R121). -/
  | movRI (rD : Reg) (imm : Word)
  /-- `and rD, rA, Imm16`, ALU_RI (R126). -/
  | andRI (rD rA : Reg) (imm : Word)
  /-- `or rD, rA, Imm16`, ALU_RI (R131). -/
  | orRI (rD rA : Reg) (imm : Word)
  /-- `xor rD, rA, Imm16`, ALU_RI (R136). -/
  | xorRI (rD rA : Reg) (imm : Word)
  /-- `add rD, rA, Imm16`, ALU_RI (R141). -/
  | addRI (rD rA : Reg) (imm : Word)
  /-- `sub rD, rA, Imm16`, ALU_RI (R146). -/
  | subRI (rD rA : Reg) (imm : Word)
  /-- `addc rD, rA, Imm16`, ALU_RI (R151). -/
  | addcRI (rD rA : Reg) (imm : Word)
  /-- `subb rD, rA, Imm16`, ALU_RI (R156). -/
  | subbRI (rD rA : Reg) (imm : Word)
  /-- `sll rD, rA, Imm4` (R211). -/
  | sll (rD rA : Reg) (amount : BitVec 4)
  /-- `srl rD, rA, Imm4` (R212). -/
  | srl (rD rA : Reg) (amount : BitVec 4)
  /-- `sra rD, rA, Imm4` (R213). -/
  | sra (rD rA : Reg) (amount : BitVec 4)
  /-- `mov rD, [Addr16]`, ALU_RD (R122). -/
  | movRD (rD : Reg) (addr : Word)
  /-- `and rD, rA, [Addr16]`, ALU_RD (R127). -/
  | andRD (rD rA : Reg) (addr : Word)
  /-- `or rD, rA, [Addr16]`, ALU_RD (R132). -/
  | orRD (rD rA : Reg) (addr : Word)
  /-- `xor rD, rA, [Addr16]`, ALU_RD (R137). -/
  | xorRD (rD rA : Reg) (addr : Word)
  /-- `add rD, rA, [Addr16]`, ALU_RD (R142). -/
  | addRD (rD rA : Reg) (addr : Word)
  /-- `sub rD, rA, [Addr16]`, ALU_RD (R147). -/
  | subRD (rD rA : Reg) (addr : Word)
  /-- `addc rD, rA, [Addr16]`, ALU_RD (R152). -/
  | addcRD (rD rA : Reg) (addr : Word)
  /-- `subb rD, rA, [Addr16]`, ALU_RD (R157). -/
  | subbRD (rD rA : Reg) (addr : Word)
  /-- `mov rD, [rB]`, ALU_RN (R123). -/
  | movRN (rD rB : Reg)
  /-- `and rD, rA, [rB]`, ALU_RN (R128). -/
  | andRN (rD rA rB : Reg)
  /-- `or rD, rA, [rB]`, ALU_RN (R133). -/
  | orRN (rD rA rB : Reg)
  /-- `xor rD, rA, [rB]`, ALU_RN (R138). -/
  | xorRN (rD rA rB : Reg)
  /-- `add rD, rA, [rB]`, ALU_RN (R143). -/
  | addRN (rD rA rB : Reg)
  /-- `sub rD, rA, [rB]`, ALU_RN (R148). -/
  | subRN (rD rA rB : Reg)
  /-- `addc rD, rA, [rB]`, ALU_RN (R153). -/
  | addcRN (rD rA rB : Reg)
  /-- `subb rD, rA, [rB]`, ALU_RN (R158). -/
  | subbRN (rD rA rB : Reg)
  /-- `mov rD, [rA+Imm16]`, ALU_RX (R124). -/
  | movRX (rD rA : Reg) (imm : Word)
  /-- `and rD, [rA+Imm16]`, ALU_RX (R129). -/
  | andRX (rD rA : Reg) (imm : Word)
  /-- `or rD, [rA+Imm16]`, ALU_RX (R134). -/
  | orRX (rD rA : Reg) (imm : Word)
  /-- `xor rD, [rA+Imm16]`, ALU_RX (R139). -/
  | xorRX (rD rA : Reg) (imm : Word)
  /-- `add rD, [rA+Imm16]`, ALU_RX (R144). -/
  | addRX (rD rA : Reg) (imm : Word)
  /-- `sub rD, [rA+Imm16]`, ALU_RX (R149). -/
  | subRX (rD rA : Reg) (imm : Word)
  /-- `addc rD, [rA+Imm16]`, ALU_RX (R154). -/
  | addcRX (rD rA : Reg) (imm : Word)
  /-- `subb rD, [rA+Imm16]`, ALU_RX (R159). -/
  | subbRX (rD rA : Reg) (imm : Word)
  /-- `mov [Addr16], rA`, ALU_MD (R180). -/
  | movMD (addr : Word) (rA : Reg)
  /-- `and [Addr16], rA`, ALU_MD (R183). -/
  | andMD (addr : Word) (rA : Reg)
  /-- `or [Addr16], rA`, ALU_MD (R186). -/
  | orMD (addr : Word) (rA : Reg)
  /-- `xor [Addr16], rA`, ALU_MD (R189). -/
  | xorMD (addr : Word) (rA : Reg)
  /-- `add [Addr16], rA`, ALU_MD (R192). -/
  | addMD (addr : Word) (rA : Reg)
  /-- `sub [Addr16], rA`, ALU_MD (R195). -/
  | subMD (addr : Word) (rA : Reg)
  /-- `addc [Addr16], rA`, ALU_MD (R198). -/
  | addcMD (addr : Word) (rA : Reg)
  /-- `subb [Addr16], rA`, ALU_MD (R201). -/
  | subbMD (addr : Word) (rA : Reg)
  /-- `mov [rA], rB`, ALU_MN (R181). -/
  | movMN (rA rB : Reg)
  /-- `and [rA], rB`, ALU_MN (R184). -/
  | andMN (rA rB : Reg)
  /-- `or [rA], rB`, ALU_MN (R187). -/
  | orMN (rA rB : Reg)
  /-- `xor [rA], rB`, ALU_MN (R190). -/
  | xorMN (rA rB : Reg)
  /-- `add [rA], rB`, ALU_MN (R193). -/
  | addMN (rA rB : Reg)
  /-- `sub [rA], rB`, ALU_MN (R196). -/
  | subMN (rA rB : Reg)
  /-- `addc [rA], rB`, ALU_MN (R199). -/
  | addcMN (rA rB : Reg)
  /-- `subb [rA], rB`, ALU_MN (R202). -/
  | subbMN (rA rB : Reg)
  /-- `mov [rA+Imm16], rB`, ALU_MX (R182). -/
  | movMX (rA : Reg) (imm : Word) (rB : Reg)
  /-- `and [rA+Imm16], rB`, ALU_MX (R185). -/
  | andMX (rA : Reg) (imm : Word) (rB : Reg)
  /-- `or [rA+Imm16], rB`, ALU_MX (R188). -/
  | orMX (rA : Reg) (imm : Word) (rB : Reg)
  /-- `xor [rA+Imm16], rB`, ALU_MX (R191). -/
  | xorMX (rA : Reg) (imm : Word) (rB : Reg)
  /-- `add [rA+Imm16], rB`, ALU_MX (R194). -/
  | addMX (rA : Reg) (imm : Word) (rB : Reg)
  /-- `sub [rA+Imm16], rB`, ALU_MX (R197). -/
  | subMX (rA : Reg) (imm : Word) (rB : Reg)
  /-- `addc [rA+Imm16], rB`, ALU_MX (R200). -/
  | addcMX (rA : Reg) (imm : Word) (rB : Reg)
  /-- `subb [rA+Imm16], rB`, ALU_MX (R203). -/
  | subbMX (rA : Reg) (imm : Word) (rB : Reg)
  /-- `movb rD, [rA+Imm16]` (R220). -/
  | movb (rD rA : Reg) (imm : Word)
  /-- `swap rD, [rA+Imm16]` (R230). -/
  | swap (rD rA : Reg) (imm : Word)
  /-- `peek rD, [rA+Imm16], W` (R232). -/
  | peek (rD rA : Reg) (imm : Word) (half : RomHalf)
  /-- `push rB` (R242). -/
  | pushR (rB : Reg)
  /-- `push Imm16` (R243). -/
  | pushI (imm : Word)
  /-- `pushf` (R244). -/
  | pushf
  /-- `pop rD` (R245). -/
  | pop (rD : Reg)
  /-- `popf` (R246). -/
  | popf
  /-- `jmp rA` (R264). -/
  | jmpR (rA : Reg)
  /-- `jz rA` (R265). -/
  | jzR (rA : Reg)
  /-- `jnz rA` (R266). -/
  | jnzR (rA : Reg)
  /-- `jc rA` (R267). -/
  | jcR (rA : Reg)
  /-- `jnc rA` (R268). -/
  | jncR (rA : Reg)
  /-- `jlt rA` (R269). -/
  | jltR (rA : Reg)
  /-- `jle rA` (R270). -/
  | jleR (rA : Reg)
  /-- `jleu rA` (R271). -/
  | jleuR (rA : Reg)
  /-- `jmp Addr16` (R272). -/
  | jmpI (addr : Word)
  /-- `jz Addr16` (R273). -/
  | jzI (addr : Word)
  /-- `jnz Addr16` (R274). -/
  | jnzI (addr : Word)
  /-- `jc Addr16` (R275). -/
  | jcI (addr : Word)
  /-- `jnc Addr16` (R276). -/
  | jncI (addr : Word)
  /-- `jlt Addr16` (R277). -/
  | jltI (addr : Word)
  /-- `jle Addr16` (R278). -/
  | jleI (addr : Word)
  /-- `jleu Addr16` (R279). -/
  | jleuI (addr : Word)
  /-- `call rA` (R291). -/
  | callR (rA : Reg)
  /-- `call Addr16` (R292). -/
  | callI (addr : Word)
  /-- `syscall rA` (R293). -/
  | syscallR (rA : Reg)
  /-- `syscall Addr16` (R294). -/
  | syscallI (addr : Word)
  /-- `enter rA` (R295). -/
  | enterR (rA : Reg)
  /-- `enter Addr16` (R296). -/
  | enterI (addr : Word)
  /-- `ret` (R297). -/
  | ret
  /-- `sysret` (R298). -/
  | sysret
  /-- `exit` (R299). -/
  | exit
  deriving DecidableEq, Repr

end Sys2Proof
end

