-- ==== Sys2Proof/Config.lean ====
section
/-! DEFINITION. The parameters and the free values of the model (R6, `92_eei_decisions.md`, `93_implementation_defined.md`).

An opaque constant here has no body: nothing in Lean can evaluate it, so no proof can depend on its value. `RESET_PC`,
`ROM_IMAGE` and `RAM_MAP` are arguments of reset (`State.resetWith`), the last two plain data that the state carries (log 5,
6, 7); `INTERRUPTS` is none (log 24); `REGNAME` belongs to the assembler and is left out (log 31). -/

namespace Sys2Proof

/-- The numbers that the encoding takes from outside the source (R67, R68, R71): `ALU_FUNCT`, `JMP_FUNCT` and the six bytes
of `CALLRET_OPCODES`. Decoder, encoder and step take it as an argument (R69); the spec's default is
`defaultOpcodes` in Decode.lean. -/
structure OpcodeAssignment where
  /-- `ALU_FUNCT` (R67). -/
  aluFunct : AluOp → BitVec 3
  /-- `JMP_FUNCT` (R68). -/
  jmpFunct : Cond → BitVec 3
  /-- The opcode byte of `syscall rA` (R71). -/
  syscallR : BitVec 8
  /-- The opcode byte of `syscall Addr16` (R71). -/
  syscallI : BitVec 8
  /-- The opcode byte of `enter rA` (R71). -/
  enterR : BitVec 8
  /-- The opcode byte of `enter Addr16` (R71). -/
  enterI : BitVec 8
  /-- The opcode byte of `sysret` (R71). -/
  sysret : BitVec 8
  /-- The opcode byte of `exit` (R71). -/
  exit : BitVec 8

/-- The names of the four flags (R27). -/
inductive FlagName where
  | z | c | v | s
  deriving DecidableEq, Repr

/-- The parameter `FLAGS_LAYOUT`: four DISTINCT bit positions of the FLAGS word (R30). The choice is written so that
every value is a legal layout and every legal layout is a value: `z` is a position among the sixteen, `c` an index among
the fifteen positions left, `v` among the fourteen left after that, `s` among the last thirteen. The positions
themselves are `FlagsLayout.posZ` and so on, in Machine/Flags.lean. -/
structure FlagsLayout where
  z : Fin 16
  c : Fin 15
  v : Fin 14
  s : Fin 13
  deriving DecidableEq, Repr, Inhabited

/-- FREE VALUE (log 9). `FLAGS_LAYOUT` has no default (decision D6, U8). -/
opaque Config.flagsLayout : FlagsLayout

/-- FREE VALUE (log 10). The one-bit `draw()` of R9: the `n`-th bit drawn, under no law (U1). -/
opaque Config.drawBit : Nat → Bool

/-- FREE VALUE (log 11). The 16-bit `draw()`: the bits of a pushed FLAGS word that hold no flag (R30, U7). -/
opaque Config.drawWord : Nat → Word

/-- FREE VALUE (log 2). What the RAM word at an address reads as while nothing has written it: one draw per location, then
stable (R38, R41, U6). -/
opaque Config.unwrittenRam : Nat → Word

/-- FREE VALUE (log 3). What register `i` holds at reset, for `i` from 1 to 15 (R38, U6). -/
opaque Config.resetRegister : Nat → Word

/-- FREE VALUE (log 4). What a flag holds at reset (R38, R344, U6). -/
opaque Config.resetFlag : FlagName → Bool

/-- The default of `RESET_PC` (R341, decision D18; log 5). The parameter itself is an argument of `State.resetWith`. -/
def Config.defaultResetPc : Word := 0x0000#16

end Sys2Proof
end

