-- ==== Sys2Proof/WellFormed.lean ====
section
/-! DEFINITION. The check an instruction must pass to have a meaning (R247, R304, U3): the stack pointer may not be the
explicit operand of an instruction that also moves it. Every other constraint on operands (a register number below 16, a
4-bit amount, a 16-bit immediate) is carried by the operand's type. -/

namespace Sys2Proof

/-- The uses of `sp` as explicit operand that the spec reserves (R247, R304). -/
inductive IllFormed where
  /-- `push sp` (R247). -/
  | pushSp
  /-- `pop sp` (R247). -/
  | popSp
  /-- `call sp` (R304). -/
  | callSp
  /-- `syscall sp` (R304). -/
  | syscallSp
  /-- `enter sp` (R304). -/
  | enterSp
  deriving DecidableEq, Repr

/-- Which reserved use an instruction is, if it is one. -/
def Instr.illFormed? : Instr → Option IllFormed
  | .pushR rB => if rB = spReg then some .pushSp else none
  | .pop rD => if rD = spReg then some .popSp else none
  | .callR rA => if rA = spReg then some .callSp else none
  | .syscallR rA => if rA = spReg then some .syscallSp else none
  | .enterR rA => if rA = spReg then some .enterSp else none
  | .movRR .. | .andRR .. | .orRR .. | .xorRR .. | .addRR .. | .subRR .. | .addcRR .. | .subbRR .. => none
  | .movRI .. | .andRI .. | .orRI .. | .xorRI .. | .addRI .. | .subRI .. | .addcRI .. | .subbRI .. => none
  | .movRD .. | .andRD .. | .orRD .. | .xorRD .. | .addRD .. | .subRD .. | .addcRD .. | .subbRD .. => none
  | .movRN .. | .andRN .. | .orRN .. | .xorRN .. | .addRN .. | .subRN .. | .addcRN .. | .subbRN .. => none
  | .movRX .. | .andRX .. | .orRX .. | .xorRX .. | .addRX .. | .subRX .. | .addcRX .. | .subbRX .. => none
  | .movMD .. | .andMD .. | .orMD .. | .xorMD .. | .addMD .. | .subMD .. | .addcMD .. | .subbMD .. => none
  | .movMN .. | .andMN .. | .orMN .. | .xorMN .. | .addMN .. | .subMN .. | .addcMN .. | .subbMN .. => none
  | .movMX .. | .andMX .. | .orMX .. | .xorMX .. | .addMX .. | .subMX .. | .addcMX .. | .subbMX .. => none
  | .sll .. | .srl .. | .sra .. | .movb .. | .swap .. | .peek .. => none
  | .pushI .. | .pushf | .popf => none
  | .jmpR .. | .jzR .. | .jnzR .. | .jcR .. | .jncR .. | .jltR .. | .jleR .. | .jleuR .. => none
  | .jmpI .. | .jzI .. | .jnzI .. | .jcI .. | .jncI .. | .jltI .. | .jleI .. | .jleuI .. => none
  | .callI .. | .syscallI .. | .enterI .. | .ret | .sysret | .exit => none

/-- An instruction the spec gives a meaning to (R247, R304, R321). -/
def Instr.wellFormed (i : Instr) : Bool := i.illFormed?.isNone

end Sys2Proof
end

