-- ==== Sys2Proof/Machine/State.lean ====
section
/-! DEFINITION. The architectural state of CESC16 as plain data (R20 to R38, R40, R50), the reasons a step can stop, and
the state after reset. -/

namespace Sys2Proof.Machine

/-- `memSpace`: which memory instructions are fetched from (R31). -/
inductive MemSpace where
  | rom | ram
  deriving DecidableEq, Repr

/-- The four flags of the status register (R27). -/
structure Flags where
  /-- Zero. -/
  z : Bool
  /-- Carry; after a subtraction 1 means no borrow. -/
  c : Bool
  /-- oVerflow. -/
  v : Bool
  /-- Sign. -/
  s : Bool
  deriving DecidableEq, Repr

/-- What the platform has at a RAM address (R50). -/
inductive RamKind where
  | storage | device | absent
  deriving DecidableEq, Repr

/-- A run of RAM addresses, from `base` up, that the platform says something about (R50). -/
structure RamRegion where
  base : Nat
  size : Nat
  kind : RamKind
  deriving DecidableEq, Repr

/-- A memory whose cells are words of `w` bits: the cells that have been written (RAM) or populated (ROM), as pairs of a
word address and a word, addresses strictly rising (`Memory.wf`, Machine/Ops.lean). An unlisted address has no word. The
spec has no byte address, so the cell is the word (R34, R35, R40, R47; log 1). -/
abbrev Memory (w : Nat) := List (Nat × BitVec w)

/-- The state of the machine. -/
structure State where
  /-- The sixteen general registers (R20); the cell of register 0 is never read or written (R21). -/
  regs : Vector Word 16
  /-- The program counter (R24). -/
  pc : Word
  /-- The flags (R27). -/
  flags : Flags
  /-- `memSpace` (R31). -/
  ms : MemSpace
  /-- Data memory, "RAM" (R34). -/
  ram : Memory 16
  /-- Program memory, "ROM": the parameter `ROM_IMAGE` (R35; log 6). -/
  rom : Memory 32
  /-- The parameter `RAM_MAP`: the first region that holds an address decides, and an address in no region is storage
  (R50; log 7). -/
  ramMap : List RamRegion
  /-- The model's own field: how often `draw()` has been used (R9, U1; log 10). -/
  draws : Nat
  deriving DecidableEq, Repr

/-- The faults of the machine: none. The machine raises no exception of any kind (R320), so the type is empty, and no step
can answer `fault` (log 27). Safe: nothing is hidden behind a fault. -/
inductive Fault where
  deriving DecidableEq, Repr

/-- Why a step stops: the spec gives the machine no meaning here (R9 `refuse`, R321). -/
inductive Refusal where
  /-- Raised by `exec` for an instruction that has no meaning in the model; no arm of `exec` does so. Safe. -/
  | notModelled (mnemonic : String)
  /-- Raised by a step whose fetched words decode to no instruction (R66, R72, R321, U4, U5; log 13). Safe: nothing has
  changed and nothing follows (R325). -/
  | reservedEncoding (why : DecodeReject)
  /-- Raised by `push sp`, `pop sp`, `call sp`, `syscall sp` and `enter sp` (R247, R304, U3; log 14). Safe. -/
  | reservedUseOfSp (why : IllFormed)
  /-- Raised by a read, a write or a fetch at a RAM address that `RAM_MAP` gives to a device (R41, R42, R50, U10;
  log 15). Safe. -/
  | ramDevice (address : Word)
  /-- Raised by a read, a write or a fetch at a RAM address that `RAM_MAP` calls absent (R41, R42, R50, U10; log 15).
  Safe. -/
  | ramAbsent (address : Word)
  /-- Raised by a fetch or a `peek` at a ROM address that `ROM_IMAGE` does not populate (R44, U10, decision D17;
  log 15). Safe. -/
  | romUnpopulated (address : Word)
  deriving DecidableEq, Repr

/-- What a meaning answers. -/
abbrev Outcome := Host.Outcome State Fault Refusal

/-- The machine right after reset, for the three parameters a harness passes: the entry point `RESET_PC` (R341, decision
D18), the program `ROM_IMAGE` (R35, decision D17) and the address map `RAM_MAP` (R50, decision D16). The spec fixes `x[0]`
and `ms`; every register and flag it calls unspecified holds a free value of Config.lean (log 3, 4, 5); RAM has nothing
written (log 2). -/
def State.resetWith (entry : Word) (image : Memory 32) (map : List RamRegion) : State where
  regs := #v[0, Config.resetRegister 1, Config.resetRegister 2, Config.resetRegister 3, Config.resetRegister 4,
    Config.resetRegister 5, Config.resetRegister 6, Config.resetRegister 7, Config.resetRegister 8,
    Config.resetRegister 9, Config.resetRegister 10, Config.resetRegister 11, Config.resetRegister 12,
    Config.resetRegister 13, Config.resetRegister 14, Config.resetRegister 15]
  pc := entry
  flags := { z := Config.resetFlag .z, c := Config.resetFlag .c, v := Config.resetFlag .v, s := Config.resetFlag .s }
  ms := .rom
  ram := []
  rom := image
  ramMap := map
  draws := 0

/-- The machine right after reset with every parameter at the spec's default (R38, R340 to R344): the default `RESET_PC`
(log 5), no program loaded (log 6), every RAM address storage (log 7). -/
def State.reset : State := State.resetWith Config.defaultResetPc [] []

end Sys2Proof.Machine
end

