-- ==== Sys2Proof/Machine/Flags.lean ====
section
/-! DEFINITION. What the ALU, the shifter and the FLAGS word compute: results and flags of the eight ALU operations (R110
to R117), of the three shifts (R210 to R213), the eight jump conditions (R261), and the layout of FLAGS (R30). -/

namespace Sys2Proof.Machine

/-! ## ALU operations (R110 to R117) -/

/-- The 17-bit sum `a + b + carry-in` (R114, R116). -/
def sum17 (a b : Word) (cin : Bool) : BitVec 17 :=
  a.setWidth 17 + b.setWidth 17 + (BitVec.ofBool cin).setWidth 17

/-- `t` of R114 to R117: `a + b`, `a + ~b + 1`, `a + b + F.C`, `a + ~b + F.C`, each as a 17-bit sum. The logic operations
have none. -/
def aluSum (f : AluOp) (a b : Word) (carry : Bool) : BitVec 17 :=
  match f with
  | .mov | .and | .or | .xor => 0
  | .add => sum17 a b false
  | .sub => sum17 a (~~~b) true
  | .addc => sum17 a b carry
  | .subb => sum17 a (~~~b) carry

/-- The result `r` of `ALU_f(a, b, F.C)` (R110 to R117). -/
def aluResult (f : AluOp) (a b : Word) (carry : Bool) : Word :=
  match f with
  | .mov => b
  | .and => a &&& b
  | .or => a ||| b
  | .xor => a ^^^ b
  | .add | .sub | .addc | .subb => (aluSum f a b carry).setWidth 16

/-- `V` of an addition: operands of like sign and a result of the other sign (R114, R116). -/
def addOverflow (a b r : Word) : Bool := (a.msb == b.msb) && (r.msb != a.msb)

/-- `V` of a subtraction: operands of unlike sign and a result whose sign is not the first operand's (R115, R117). -/
def subOverflow (a b r : Word) : Bool := (a.msb != b.msb) && (r.msb != a.msb)

/-- Flags of a result whose `C` and `V` the source leaves undefined: `Z` and `S` from the result, `C` and `V` the next
two draws (R28, R111 to R113, R210, U1; log 10). -/
def logicFlags (r : Word) (draws : Nat) : Flags where
  z := r == 0
  c := Config.drawBit draws
  v := Config.drawBit (draws + 1)
  s := r.msb

/-- Flags of a sum `t` with overflow `v` (R27, R114 to R117). -/
def sumFlags (t : BitVec 17) (v : Bool) : Flags where
  z := t.setWidth 16 == 0
  c := t.msb
  v := v
  s := (t.setWidth 16).msb

/-- The flags after `ALU_f(a, b, F.C)` in a state with flags `F` and `draws` uses of `draw()` so far (R28, R110 to
R117). `mov` writes none. -/
def aluFlags (f : AluOp) (a b : Word) (F : Flags) (draws : Nat) : Flags :=
  match f with
  | .mov => F
  | .and | .or | .xor => logicFlags (aluResult f a b F.c) draws
  | .add | .addc => sumFlags (aluSum f a b F.c) (addOverflow a b (aluResult f a b F.c))
  | .sub | .subb => sumFlags (aluSum f a b F.c) (subOverflow a b (aluResult f a b F.c))

/-- How many bits an operation draws: `C` and `V` of the logic operations (R28). -/
def aluDraws (f : AluOp) : Nat :=
  match f with
  | .and | .or | .xor => 2
  | .mov | .add | .sub | .addc | .subb => 0

/-! ## Shifts (R210 to R213) -/

/-- The three shifts (R210). -/
inductive ShiftOp where
  | sll | srl | sra
  deriving DecidableEq, Repr

/-- `shift_T(a, n)` (R211 to R213). -/
def shiftResult (t : ShiftOp) (a : Word) (n : Nat) : Word :=
  match t with
  | .sll => a <<< n
  | .srl => a >>> n
  | .sra => a.sshiftRight n

/-! ## Jump conditions (R261) -/

/-- `cond(Funct, F)` (R261; log 21). -/
def condHolds (c : Cond) (F : Flags) : Bool :=
  match c with
  | .jmp => true
  | .jz => F.z
  | .jnz => !F.z
  | .jc => F.c
  | .jnc => !F.c
  | .jlt => F.s != F.v
  | .jle => F.z || (F.s != F.v)
  | .jleu => !F.c || F.z

/-! ## FLAGS as a word (R30) -/

end Sys2Proof.Machine

namespace Sys2Proof

/-- The bit of FLAGS that holds `Z` (R30). -/
def FlagsLayout.posZ (l : FlagsLayout) : Fin 16 := l.z

/-- The bit of FLAGS that holds `C`: the `c`-th of the positions other than `posZ` (R30). -/
def FlagsLayout.posC (l : FlagsLayout) : Fin 16 := l.z.succAbove l.c

/-- The bit of FLAGS that holds `V`: the `v`-th of the positions left (R30). -/
def FlagsLayout.posV (l : FlagsLayout) : Fin 16 := l.z.succAbove (l.c.succAbove l.v)

/-- The bit of FLAGS that holds `S`: the `s`-th of the positions left (R30). -/
def FlagsLayout.posS (l : FlagsLayout) : Fin 16 := l.z.succAbove (l.c.succAbove (l.v.succAbove l.s))

end Sys2Proof

namespace Sys2Proof.Machine

/-- `w` with bit `i` made `b`. -/
def putBit (w : Word) (i : Fin 16) (b : Bool) : Word :=
  (w &&& ~~~(1#16 <<< i.val)) ||| ((BitVec.ofBool b).setWidth 16 <<< i.val)

/-- `flags_to_word(F)`: each flag at its position, every other bit from `other`, the word drawn (R30, U7; log 9, 11). -/
def flagsToWord (l : FlagsLayout) (F : Flags) (other : Word) : Word :=
  putBit (putBit (putBit (putBit other l.posZ F.z) l.posC F.c) l.posV F.v) l.posS F.s

/-- `word_to_flags(w)`: the four bits at their positions, the other twelve ignored (R30). -/
def wordToFlags (l : FlagsLayout) (w : Word) : Flags where
  z := w.getLsbD l.posZ.val
  c := w.getLsbD l.posC.val
  v := w.getLsbD l.posV.val
  s := w.getLsbD l.posS.val

end Sys2Proof.Machine
end

