-- ==== Sys2Proof/Machine/Ops.lean ====
section
/-! DEFINITION. The named operations over memory and registers (R9, R20 to R26, R40 to R44, R50), in which every meaning
is written. Taking an exception and returning from one have no operation here: the machine raises none and the spec
describes no trap entry and no trap return (R320, R327, R328; log 27). -/

namespace Sys2Proof.Machine

/-! ## Memories -/

/-- The word listed at an address, if any. -/
def Memory.read {w : Nat} (m : Memory w) (a : Nat) : Option (BitVec w) :=
  match m with
  | [] => none
  | (k, v) :: rest => if k = a then some v else Memory.read rest a

/-- Make `v` the word at `a`, keeping the addresses in rising order. -/
def Memory.write {w : Nat} (m : Memory w) (a : Nat) (v : BitVec w) : Memory w :=
  match m with
  | [] => [(a, v)]
  | (k, u) :: rest =>
    if a < k then (a, v) :: (k, u) :: rest
    else if k = a then (a, v) :: rest
    else (k, u) :: Memory.write rest a v

/-- All addresses are at least `lo`, below 2^16, and strictly rising. -/
def Memory.risesFrom {w : Nat} (lo : Nat) (m : Memory w) : Bool :=
  match m with
  | [] => true
  | (k, _) :: rest => decide (lo ≤ k) && decide (k < addressCount) && Memory.risesFrom (k + 1) rest

/-- The canonical form: addresses strictly rising and inside the address space (R34, R35). An unlisted address has no
word, so no listed word equals what an unlisted address has. -/
def Memory.wf {w : Nat} (m : Memory w) : Bool := Memory.risesFrom 0 m

/-! ## General registers (R20, R21) -/

/-- Read a register of a register file; register 0 reads as 0 (R21). -/
def readReg (regs : Vector Word 16) (r : Reg) : Word :=
  if r = zeroReg then 0 else regs.get r

/-- Write a register of a register file; a write to register 0 is discarded (R21). -/
def writeReg (regs : Vector Word 16) (r : Reg) (v : Word) : Vector Word 16 :=
  if r = zeroReg then regs else regs.set r.val v r.isLt

/-- `x[r]` (R9). -/
def State.reg (s : State) (r : Reg) : Word := readReg s.regs r

/-- `x[r] <- v` (R9). -/
def State.setReg (s : State) (r : Reg) (v : Word) : State := { s with regs := writeReg s.regs r v }

/-! ## The other registers -/

/-- `pc <- t` (R9). -/
def State.setPc (s : State) (t : Word) : State := { s with pc := t }

/-- `F <- f` (R9). -/
def State.setFlags (s : State) (f : Flags) : State := { s with flags := f }

/-- `ms <- m` (R9). -/
def State.setMs (s : State) (m : MemSpace) : State := { s with ms := m }

/-- Count `n` uses of `draw()` (log 10). -/
def State.addDraws (s : State) (n : Nat) : State := { s with draws := s.draws + n }

/-- `N`: the size of an instruction in address units of the current memory space (R25). -/
def State.instrSize (s : State) : Word :=
  match s.ms with
  | .rom => 1
  | .ram => 2

/-- `(pc + N) mod 2^16`: the address of the next instruction (R25, R26). -/
def State.nextPc (s : State) : Word := s.pc + s.instrSize

/-- `pc <- pc + N` (R25). -/
def State.advance (s : State) : State := s.setPc s.nextPc

/-! ## Data memory (R41, R42, R50) -/

/-- Does a region hold an address? -/
def RamRegion.holds (r : RamRegion) (a : Nat) : Bool := decide (r.base ≤ a) && decide (a < r.base + r.size)

/-- `RAM_MAP(a)`: the first region that holds `a` decides; storage where none does (R50; log 7). -/
def ramKindIn (map : List RamRegion) (a : Word) : RamKind :=
  match map with
  | [] => .storage
  | r :: rest => if r.holds a.toNat then r.kind else ramKindIn rest a

/-- `RAM_MAP(a)` of the machine (R50). -/
def State.ramKind (s : State) (a : Word) : RamKind := ramKindIn s.ramMap a

/-- The word last written at a RAM address, if one has been (R41). -/
def State.ramCell (s : State) (a : Word) : Option Word := s.ram.read a.toNat

/-- The word `MemRead(a, 16)` gives at a storage address: the word last written, or the location's free value while
nothing has been written (R41, U6; log 2). -/
def State.ramWord (s : State) (a : Word) : Word := (s.ramCell a).getD (Config.unwrittenRam a.toNat)

/-- The effect of `MemWrite(a, 16, v)` at a storage address (R42). -/
def State.setRam (s : State) (a : Word) (v : Word) : State := { s with ram := s.ram.write a.toNat v }

/-- Go on with an instruction that accesses RAM address `a`, or refuse where the platform has no storage there: the spec
gives an access to a device or absent address no meaning (R41, R42, R50; log 15). -/
def State.onStorage (s : State) (a : Word) (k : Outcome) : Outcome :=
  match s.ramKind a with
  | .storage => k
  | .device => .refused (.ramDevice a)
  | .absent => .refused (.ramAbsent a)

/-! ## Program memory (R44) -/

/-- `ROM_IMAGE(a)`, if the image populates `a` (R44, decision D17). -/
def State.romWord (s : State) (a : Word) : Option RomWord := s.rom.read a.toNat

/-- The half of a program-memory word that `W` names (R44). -/
def romHalf (I : RomWord) (w : RomHalf) : Word :=
  match w with
  | .upper => I.extractLsb' 16 16
  | .lower => I.extractLsb' 0 16

/-! ## The stack (R58, R240, R241) -/

/-- The address a push stores at: `sp - 1`, the NEW value of `sp` (R240). -/
def State.pushAddress (s : State) : Word := s.reg spReg - 1

/-- `push(v)` at a storage address (R240). -/
def State.push (s : State) (v : Word) : State := (s.setReg spReg s.pushAddress).setRam s.pushAddress v

/-- The address a pop loads from: the OLD value of `sp` (R241). -/
def State.popAddress (s : State) : Word := s.reg spReg

/-- The word `pop()` returns (R241). -/
def State.popped (s : State) : Word := s.ramWord s.popAddress

/-- The effect of `pop()` on `sp` (R241). -/
def State.dropTop (s : State) : State := s.setReg spReg (s.reg spReg + 1)

end Sys2Proof.Machine
end

