-- ==== Sys2Proof/Machine/Operands.lean ====
section
/-! DEFINITION. Operand forms, and the execution that the instructions of a family share: effective addresses (R43), the
two ALU destinations (R106, R174), shifts (R210, R214), the indexed memory instructions (R220, R230, R232), stack (R242 to
R246), jumps (R260), calls and returns (R290, R297). -/

namespace Sys2Proof.Machine

/-! ## Effective addresses (R43) -/

/-- Indexed addressing, `(x[A] + Imm16) mod 2^16`, computed once from the state before the instruction (R43). -/
def State.indexed (s : State) (rA : Reg) (imm : Word) : Word := s.reg rA + imm

/-! ## ALU forms (R106, R174) -/

/-- The flags and the draws of `ALU_f(a, b, F.C)` (R106, R174). -/
def State.aluUpdate (s : State) (f : AluOp) (a b : Word) : State :=
  (s.setFlags (aluFlags f a b s.flags s.draws)).addDraws (aluDraws f)

/-- Register destination: `x[D] <- r; F <- fl; pc <- pc + N` (R106). The flags are updated also when `D = 0`. -/
def State.aluToReg (s : State) (f : AluOp) (rD : Reg) (a b : Word) : State :=
  ((s.aluUpdate f a b).setReg rD (aluResult f a b s.flags.c)).advance

/-- `mov` to a register: `x[D] <- v; pc <- pc + N`; no first operand is read and no flag written (R107, R110). -/
def State.movToReg (s : State) (rD : Reg) (v : Word) : State := (s.setReg rD v).advance

/-- Memory destination: `a = RAM[ea]`, `F <- fl`, `RAM[ea] <- r`, `pc <- pc + N`, all at the same `ea` (R174). -/
def State.aluToRam (s : State) (f : AluOp) (ea b : Word) : State :=
  ((s.aluUpdate f (s.ramWord ea) b).setRam ea (aluResult f (s.ramWord ea) b s.flags.c)).advance

/-- `mov` to memory: the old word is not read and no flag is written (R174, R175). -/
def State.movToRam (s : State) (ea b : Word) : State := (s.setRam ea b).advance

/-! ## Shifts (R210, R214) -/

/-- A shift by 1 to 15: result, `Z` and `S` from it, `C` and `V` drawn (R210). -/
def State.shiftToReg (s : State) (t : ShiftOp) (rD rA : Reg) (n : Nat) : State :=
  let r := shiftResult t (s.reg rA) n
  (((s.setFlags (logicFlags r s.draws)).addDraws 2).setReg rD r).advance

/-- A shift by `Imm4`; a shift by 0 is a strict NOP: no register and no flag is written (R214; log 18). -/
def State.shift (s : State) (t : ShiftOp) (rD rA : Reg) (amount : BitVec 4) : State :=
  if amount = 0 then s.advance else s.shiftToReg t rD rA amount.toNat

/-! ## `movb`, `swap`, `peek` (R220, R230, R232) -/

/-- `sext_8(w[7:0])` (R8, R220). -/
def sext8 (w : Word) : Word := (w.extractLsb' 0 8).signExtend 16

/-- The effect of `movb` with effective address `ea` (R220). -/
def State.loadByte (s : State) (rD : Reg) (ea : Word) : State := (s.setReg rD (sext8 (s.ramWord ea))).advance

/-- The effect of `swap` with effective address `ea`: the old `x[D]` goes to memory, the old word to `x[D]` (R230). -/
def State.exchange (s : State) (rD : Reg) (ea : Word) : State :=
  ((s.setReg rD (s.ramWord ea)).setRam ea (s.reg rD)).advance

/-- The effect of `peek` with effective address `ea` in PROGRAM memory (R232). -/
def State.peekAt (s : State) (rD : Reg) (ea : Word) (half : RomHalf) : Outcome :=
  match s.romWord ea with
  | some I => .next (s.setReg rD (romHalf I half)).advance
  | none => .refused (.romUnpopulated ea)

/-! ## Stack instructions (R242 to R246) -/

/-- `push(v); pc <- pc + N` (R242, R243). -/
def State.pushThenAdvance (s : State) (v : Word) : Outcome :=
  s.onStorage s.pushAddress (.next (s.push v).advance)

/-- The word `pushf` stores: the flags at their positions, the other bits drawn (R30, R244; log 9, 11). -/
def State.flagsWord (s : State) : Word := flagsToWord Config.flagsLayout s.flags (Config.drawWord s.draws)

/-- `v = pop(); x[D] <- v; pc <- pc + N` for `D` other than `sp` (R245). -/
def State.popToReg (s : State) (rD : Reg) : Outcome :=
  s.onStorage s.popAddress (.next (s.dropTop.setReg rD s.popped).advance)

/-- `w = pop(); F <- word_to_flags(w); pc <- pc + N` (R246). -/
def State.popToFlags (s : State) : Outcome :=
  s.onStorage s.popAddress (.next (s.dropTop.setFlags (wordToFlags Config.flagsLayout s.popped)).advance)

/-! ## Jumps, calls and returns (R260, R290, R297) -/

/-- Where `pc` goes after a jump (R260). -/
def State.jumpTarget (s : State) (c : Cond) (target : Word) : Word :=
  if condHolds c s.flags then target else s.nextPc

/-- A jump: only `pc` changes (R260, R289). -/
def State.jump (s : State) (c : Cond) (target : Word) : State := s.setPc (s.jumpTarget c target)

/-- A call: push the address of the next instruction, go to the target in the memory space `space` (R290). -/
def State.callTo (s : State) (target : Word) (space : MemSpace) : Outcome :=
  s.onStorage s.pushAddress (.next (((s.push s.nextPc).setPc target).setMs space))

/-- A return: pop `pc`, go on in the memory space `space` (R297 to R299). -/
def State.returnTo (s : State) (space : MemSpace) : Outcome :=
  s.onStorage s.popAddress (.next ((s.dropTop.setPc s.popped).setMs space))

/-- Refuse the use of `sp` as explicit operand that `why` names when the register is `sp` (R247, R304; log 14). -/
def unlessSp (r : Reg) (why : IllFormed) (k : Outcome) : Outcome :=
  if r = spReg then .refused (.reservedUseOfSp why) else k

end Sys2Proof.Machine
end

