-- ==== Sys2Proof/Machine/AluMem.lean ====
section
/-! DEFINITION. The 24 ALU instructions with a memory destination (R170 to R203): the word at the effective address is the
first operand and the destination, a register the second operand. -/

namespace Sys2Proof.Machine

/-- `mov [Addr16], rA` (R180). No flag is written. The old word is not read (R175). -/
def execMovMD (addr : Word) (rA : Reg) (s : State) : Outcome :=
  s.onStorage addr (.next (s.movToRam addr (s.reg rA)))

/-- `and [Addr16], rA` (R183). `Z`, `S` from the result, `C`, `V` drawn. -/
def execAndMD (addr : Word) (rA : Reg) (s : State) : Outcome :=
  s.onStorage addr (.next (s.aluToRam .and addr (s.reg rA)))

/-- `or [Addr16], rA` (R186). `Z`, `S` from the result, `C`, `V` drawn. -/
def execOrMD (addr : Word) (rA : Reg) (s : State) : Outcome :=
  s.onStorage addr (.next (s.aluToRam .or addr (s.reg rA)))

/-- `xor [Addr16], rA` (R189). `Z`, `S` from the result, `C`, `V` drawn. -/
def execXorMD (addr : Word) (rA : Reg) (s : State) : Outcome :=
  s.onStorage addr (.next (s.aluToRam .xor addr (s.reg rA)))

/-- `add [Addr16], rA` (R192). All four flags are defined. -/
def execAddMD (addr : Word) (rA : Reg) (s : State) : Outcome :=
  s.onStorage addr (.next (s.aluToRam .add addr (s.reg rA)))

/-- `sub [Addr16], rA` (R195). All four flags are defined. Memory is the minuend (R176). -/
def execSubMD (addr : Word) (rA : Reg) (s : State) : Outcome :=
  s.onStorage addr (.next (s.aluToRam .sub addr (s.reg rA)))

/-- `addc [Addr16], rA` (R198). All four flags are defined. -/
def execAddcMD (addr : Word) (rA : Reg) (s : State) : Outcome :=
  s.onStorage addr (.next (s.aluToRam .addc addr (s.reg rA)))

/-- `subb [Addr16], rA` (R201). All four flags are defined. Memory is the minuend (R176). -/
def execSubbMD (addr : Word) (rA : Reg) (s : State) : Outcome :=
  s.onStorage addr (.next (s.aluToRam .subb addr (s.reg rA)))

/-- `mov [rA], rB` (R181). No flag is written. The old word is not read (R175). -/
def execMovMN (rA rB : Reg) (s : State) : Outcome :=
  s.onStorage (s.reg rA) (.next (s.movToRam (s.reg rA) (s.reg rB)))

/-- `and [rA], rB` (R184). `Z`, `S` from the result, `C`, `V` drawn. -/
def execAndMN (rA rB : Reg) (s : State) : Outcome :=
  s.onStorage (s.reg rA) (.next (s.aluToRam .and (s.reg rA) (s.reg rB)))

/-- `or [rA], rB` (R187). `Z`, `S` from the result, `C`, `V` drawn. -/
def execOrMN (rA rB : Reg) (s : State) : Outcome :=
  s.onStorage (s.reg rA) (.next (s.aluToRam .or (s.reg rA) (s.reg rB)))

/-- `xor [rA], rB` (R190). `Z`, `S` from the result, `C`, `V` drawn. -/
def execXorMN (rA rB : Reg) (s : State) : Outcome :=
  s.onStorage (s.reg rA) (.next (s.aluToRam .xor (s.reg rA) (s.reg rB)))

/-- `add [rA], rB` (R193). All four flags are defined. -/
def execAddMN (rA rB : Reg) (s : State) : Outcome :=
  s.onStorage (s.reg rA) (.next (s.aluToRam .add (s.reg rA) (s.reg rB)))

/-- `sub [rA], rB` (R196). All four flags are defined. Memory is the minuend (R176). -/
def execSubMN (rA rB : Reg) (s : State) : Outcome :=
  s.onStorage (s.reg rA) (.next (s.aluToRam .sub (s.reg rA) (s.reg rB)))

/-- `addc [rA], rB` (R199). All four flags are defined. -/
def execAddcMN (rA rB : Reg) (s : State) : Outcome :=
  s.onStorage (s.reg rA) (.next (s.aluToRam .addc (s.reg rA) (s.reg rB)))

/-- `subb [rA], rB` (R202). All four flags are defined. Memory is the minuend (R176). -/
def execSubbMN (rA rB : Reg) (s : State) : Outcome :=
  s.onStorage (s.reg rA) (.next (s.aluToRam .subb (s.reg rA) (s.reg rB)))

/-- `mov [rA+Imm16], rB` (R182). No flag is written. The old word is not read (R175). -/
def execMovMX (rA : Reg) (imm : Word) (rB : Reg) (s : State) : Outcome :=
  s.onStorage (s.indexed rA imm) (.next (s.movToRam (s.indexed rA imm) (s.reg rB)))

/-- `and [rA+Imm16], rB` (R185). `Z`, `S` from the result, `C`, `V` drawn. -/
def execAndMX (rA : Reg) (imm : Word) (rB : Reg) (s : State) : Outcome :=
  s.onStorage (s.indexed rA imm) (.next (s.aluToRam .and (s.indexed rA imm) (s.reg rB)))

/-- `or [rA+Imm16], rB` (R188). `Z`, `S` from the result, `C`, `V` drawn. -/
def execOrMX (rA : Reg) (imm : Word) (rB : Reg) (s : State) : Outcome :=
  s.onStorage (s.indexed rA imm) (.next (s.aluToRam .or (s.indexed rA imm) (s.reg rB)))

/-- `xor [rA+Imm16], rB` (R191). `Z`, `S` from the result, `C`, `V` drawn. -/
def execXorMX (rA : Reg) (imm : Word) (rB : Reg) (s : State) : Outcome :=
  s.onStorage (s.indexed rA imm) (.next (s.aluToRam .xor (s.indexed rA imm) (s.reg rB)))

/-- `add [rA+Imm16], rB` (R194). All four flags are defined. -/
def execAddMX (rA : Reg) (imm : Word) (rB : Reg) (s : State) : Outcome :=
  s.onStorage (s.indexed rA imm) (.next (s.aluToRam .add (s.indexed rA imm) (s.reg rB)))

/-- `sub [rA+Imm16], rB` (R197). All four flags are defined. Memory is the minuend (R176). -/
def execSubMX (rA : Reg) (imm : Word) (rB : Reg) (s : State) : Outcome :=
  s.onStorage (s.indexed rA imm) (.next (s.aluToRam .sub (s.indexed rA imm) (s.reg rB)))

/-- `addc [rA+Imm16], rB` (R200). All four flags are defined. -/
def execAddcMX (rA : Reg) (imm : Word) (rB : Reg) (s : State) : Outcome :=
  s.onStorage (s.indexed rA imm) (.next (s.aluToRam .addc (s.indexed rA imm) (s.reg rB)))

/-- `subb [rA+Imm16], rB` (R203). All four flags are defined. Memory is the minuend (R176). -/
def execSubbMX (rA : Reg) (imm : Word) (rB : Reg) (s : State) : Outcome :=
  s.onStorage (s.indexed rA imm) (.next (s.aluToRam .subb (s.indexed rA imm) (s.reg rB)))

end Sys2Proof.Machine
end

