-- ==== Sys2Proof/Machine/AluReg.lean ====
section
/-! DEFINITION. The 40 ALU instructions with a register destination (R100 to R159): eight operations, five operand
forms, one meaning each. `a` is the first operand, `b` the second (R63). -/

namespace Sys2Proof.Machine

/-- `mov rD, rB` (R120). No flag is written. -/
def execMovRR (rD rB : Reg) (s : State) : Outcome :=
  .next (s.movToReg rD (s.reg rB))

/-- `and rD, rA, rB` (R125). `Z`, `S` from the result, `C`, `V` drawn. -/
def execAndRR (rD rA rB : Reg) (s : State) : Outcome :=
  .next (s.aluToReg .and rD (s.reg rA) (s.reg rB))

/-- `or rD, rA, rB` (R130). `Z`, `S` from the result, `C`, `V` drawn. -/
def execOrRR (rD rA rB : Reg) (s : State) : Outcome :=
  .next (s.aluToReg .or rD (s.reg rA) (s.reg rB))

/-- `xor rD, rA, rB` (R135). `Z`, `S` from the result, `C`, `V` drawn. -/
def execXorRR (rD rA rB : Reg) (s : State) : Outcome :=
  .next (s.aluToReg .xor rD (s.reg rA) (s.reg rB))

/-- `add rD, rA, rB` (R140). All four flags are defined. -/
def execAddRR (rD rA rB : Reg) (s : State) : Outcome :=
  .next (s.aluToReg .add rD (s.reg rA) (s.reg rB))

/-- `sub rD, rA, rB` (R145). All four flags are defined. -/
def execSubRR (rD rA rB : Reg) (s : State) : Outcome :=
  .next (s.aluToReg .sub rD (s.reg rA) (s.reg rB))

/-- `addc rD, rA, rB` (R150). All four flags are defined. -/
def execAddcRR (rD rA rB : Reg) (s : State) : Outcome :=
  .next (s.aluToReg .addc rD (s.reg rA) (s.reg rB))

/-- `subb rD, rA, rB` (R155). All four flags are defined. -/
def execSubbRR (rD rA rB : Reg) (s : State) : Outcome :=
  .next (s.aluToReg .subb rD (s.reg rA) (s.reg rB))

/-- `mov rD, Imm16` (R121). No flag is written. -/
def execMovRI (rD : Reg) (imm : Word) (s : State) : Outcome :=
  .next (s.movToReg rD imm)

/-- `and rD, rA, Imm16` (R126). `Z`, `S` from the result, `C`, `V` drawn. -/
def execAndRI (rD rA : Reg) (imm : Word) (s : State) : Outcome :=
  .next (s.aluToReg .and rD (s.reg rA) imm)

/-- `or rD, rA, Imm16` (R131). `Z`, `S` from the result, `C`, `V` drawn. -/
def execOrRI (rD rA : Reg) (imm : Word) (s : State) : Outcome :=
  .next (s.aluToReg .or rD (s.reg rA) imm)

/-- `xor rD, rA, Imm16` (R136). `Z`, `S` from the result, `C`, `V` drawn. -/
def execXorRI (rD rA : Reg) (imm : Word) (s : State) : Outcome :=
  .next (s.aluToReg .xor rD (s.reg rA) imm)

/-- `add rD, rA, Imm16` (R141). All four flags are defined. -/
def execAddRI (rD rA : Reg) (imm : Word) (s : State) : Outcome :=
  .next (s.aluToReg .add rD (s.reg rA) imm)

/-- `sub rD, rA, Imm16` (R146). All four flags are defined. -/
def execSubRI (rD rA : Reg) (imm : Word) (s : State) : Outcome :=
  .next (s.aluToReg .sub rD (s.reg rA) imm)

/-- `addc rD, rA, Imm16` (R151). All four flags are defined. -/
def execAddcRI (rD rA : Reg) (imm : Word) (s : State) : Outcome :=
  .next (s.aluToReg .addc rD (s.reg rA) imm)

/-- `subb rD, rA, Imm16` (R156). All four flags are defined. -/
def execSubbRI (rD rA : Reg) (imm : Word) (s : State) : Outcome :=
  .next (s.aluToReg .subb rD (s.reg rA) imm)

/-- `mov rD, [Addr16]` (R122). No flag is written. -/
def execMovRD (rD : Reg) (addr : Word) (s : State) : Outcome :=
  s.onStorage addr (.next (s.movToReg rD (s.ramWord addr)))

/-- `and rD, rA, [Addr16]` (R127). `Z`, `S` from the result, `C`, `V` drawn. -/
def execAndRD (rD rA : Reg) (addr : Word) (s : State) : Outcome :=
  s.onStorage addr (.next (s.aluToReg .and rD (s.reg rA) (s.ramWord addr)))

/-- `or rD, rA, [Addr16]` (R132). `Z`, `S` from the result, `C`, `V` drawn. -/
def execOrRD (rD rA : Reg) (addr : Word) (s : State) : Outcome :=
  s.onStorage addr (.next (s.aluToReg .or rD (s.reg rA) (s.ramWord addr)))

/-- `xor rD, rA, [Addr16]` (R137). `Z`, `S` from the result, `C`, `V` drawn. -/
def execXorRD (rD rA : Reg) (addr : Word) (s : State) : Outcome :=
  s.onStorage addr (.next (s.aluToReg .xor rD (s.reg rA) (s.ramWord addr)))

/-- `add rD, rA, [Addr16]` (R142). All four flags are defined. -/
def execAddRD (rD rA : Reg) (addr : Word) (s : State) : Outcome :=
  s.onStorage addr (.next (s.aluToReg .add rD (s.reg rA) (s.ramWord addr)))

/-- `sub rD, rA, [Addr16]` (R147). All four flags are defined. -/
def execSubRD (rD rA : Reg) (addr : Word) (s : State) : Outcome :=
  s.onStorage addr (.next (s.aluToReg .sub rD (s.reg rA) (s.ramWord addr)))

/-- `addc rD, rA, [Addr16]` (R152). All four flags are defined. -/
def execAddcRD (rD rA : Reg) (addr : Word) (s : State) : Outcome :=
  s.onStorage addr (.next (s.aluToReg .addc rD (s.reg rA) (s.ramWord addr)))

/-- `subb rD, rA, [Addr16]` (R157). All four flags are defined. -/
def execSubbRD (rD rA : Reg) (addr : Word) (s : State) : Outcome :=
  s.onStorage addr (.next (s.aluToReg .subb rD (s.reg rA) (s.ramWord addr)))

/-- `mov rD, [rB]` (R123). No flag is written. -/
def execMovRN (rD rB : Reg) (s : State) : Outcome :=
  s.onStorage (s.reg rB) (.next (s.movToReg rD (s.ramWord (s.reg rB))))

/-- `and rD, rA, [rB]` (R128). `Z`, `S` from the result, `C`, `V` drawn. -/
def execAndRN (rD rA rB : Reg) (s : State) : Outcome :=
  s.onStorage (s.reg rB) (.next (s.aluToReg .and rD (s.reg rA) (s.ramWord (s.reg rB))))

/-- `or rD, rA, [rB]` (R133). `Z`, `S` from the result, `C`, `V` drawn. -/
def execOrRN (rD rA rB : Reg) (s : State) : Outcome :=
  s.onStorage (s.reg rB) (.next (s.aluToReg .or rD (s.reg rA) (s.ramWord (s.reg rB))))

/-- `xor rD, rA, [rB]` (R138). `Z`, `S` from the result, `C`, `V` drawn. -/
def execXorRN (rD rA rB : Reg) (s : State) : Outcome :=
  s.onStorage (s.reg rB) (.next (s.aluToReg .xor rD (s.reg rA) (s.ramWord (s.reg rB))))

/-- `add rD, rA, [rB]` (R143). All four flags are defined. -/
def execAddRN (rD rA rB : Reg) (s : State) : Outcome :=
  s.onStorage (s.reg rB) (.next (s.aluToReg .add rD (s.reg rA) (s.ramWord (s.reg rB))))

/-- `sub rD, rA, [rB]` (R148). All four flags are defined. -/
def execSubRN (rD rA rB : Reg) (s : State) : Outcome :=
  s.onStorage (s.reg rB) (.next (s.aluToReg .sub rD (s.reg rA) (s.ramWord (s.reg rB))))

/-- `addc rD, rA, [rB]` (R153). All four flags are defined. -/
def execAddcRN (rD rA rB : Reg) (s : State) : Outcome :=
  s.onStorage (s.reg rB) (.next (s.aluToReg .addc rD (s.reg rA) (s.ramWord (s.reg rB))))

/-- `subb rD, rA, [rB]` (R158). All four flags are defined. -/
def execSubbRN (rD rA rB : Reg) (s : State) : Outcome :=
  s.onStorage (s.reg rB) (.next (s.aluToReg .subb rD (s.reg rA) (s.ramWord (s.reg rB))))

/-- `mov rD, [rA+Imm16]` (R124). No flag is written. -/
def execMovRX (rD rA : Reg) (imm : Word) (s : State) : Outcome :=
  s.onStorage (s.indexed rA imm) (.next (s.movToReg rD (s.ramWord (s.indexed rA imm))))

/-- `and rD, [rA+Imm16]` (R129). `Z`, `S` from the result, `C`, `V` drawn.
The first operand is the old `x[D]`, the address uses the old `x[A]` (R105, R118). -/
def execAndRX (rD rA : Reg) (imm : Word) (s : State) : Outcome :=
  s.onStorage (s.indexed rA imm) (.next (s.aluToReg .and rD (s.reg rD) (s.ramWord (s.indexed rA imm))))

/-- `or rD, [rA+Imm16]` (R134). `Z`, `S` from the result, `C`, `V` drawn.
The first operand is the old `x[D]`, the address uses the old `x[A]` (R105, R118). -/
def execOrRX (rD rA : Reg) (imm : Word) (s : State) : Outcome :=
  s.onStorage (s.indexed rA imm) (.next (s.aluToReg .or rD (s.reg rD) (s.ramWord (s.indexed rA imm))))

/-- `xor rD, [rA+Imm16]` (R139). `Z`, `S` from the result, `C`, `V` drawn.
The first operand is the old `x[D]`, the address uses the old `x[A]` (R105, R118). -/
def execXorRX (rD rA : Reg) (imm : Word) (s : State) : Outcome :=
  s.onStorage (s.indexed rA imm) (.next (s.aluToReg .xor rD (s.reg rD) (s.ramWord (s.indexed rA imm))))

/-- `add rD, [rA+Imm16]` (R144). All four flags are defined.
The first operand is the old `x[D]`, the address uses the old `x[A]` (R105, R118). -/
def execAddRX (rD rA : Reg) (imm : Word) (s : State) : Outcome :=
  s.onStorage (s.indexed rA imm) (.next (s.aluToReg .add rD (s.reg rD) (s.ramWord (s.indexed rA imm))))

/-- `sub rD, [rA+Imm16]` (R149). All four flags are defined.
The first operand is the old `x[D]`, the address uses the old `x[A]` (R105, R118). -/
def execSubRX (rD rA : Reg) (imm : Word) (s : State) : Outcome :=
  s.onStorage (s.indexed rA imm) (.next (s.aluToReg .sub rD (s.reg rD) (s.ramWord (s.indexed rA imm))))

/-- `addc rD, [rA+Imm16]` (R154). All four flags are defined.
The first operand is the old `x[D]`, the address uses the old `x[A]` (R105, R118). -/
def execAddcRX (rD rA : Reg) (imm : Word) (s : State) : Outcome :=
  s.onStorage (s.indexed rA imm) (.next (s.aluToReg .addc rD (s.reg rD) (s.ramWord (s.indexed rA imm))))

/-- `subb rD, [rA+Imm16]` (R159). All four flags are defined.
The first operand is the old `x[D]`, the address uses the old `x[A]` (R105, R118). -/
def execSubbRX (rD rA : Reg) (imm : Word) (s : State) : Outcome :=
  s.onStorage (s.indexed rA imm) (.next (s.aluToReg .subb rD (s.reg rD) (s.ramWord (s.indexed rA imm))))

end Sys2Proof.Machine
end

