-- ==== Sys2Proof/Machine/Calls.lean ====
section
/-! DEFINITION. The six calls and the three returns (R290 to R305). `call` and `ret` keep the memory space, `syscall` and
`exit` go to ROM, `enter` and `sysret` to RAM (R300, R301). -/

namespace Sys2Proof.Machine

/-- `call rA` (R291); `call sp` is reserved (R304). -/
def execCallR (rA : Reg) (s : State) : Outcome :=
  unlessSp rA .callSp (s.callTo (s.reg rA) s.ms)

/-- `call Addr16` (R292). -/
def execCallI (addr : Word) (s : State) : Outcome :=
  s.callTo addr s.ms

/-- `syscall rA` (R293); `syscall sp` is reserved (R304). -/
def execSyscallR (rA : Reg) (s : State) : Outcome :=
  unlessSp rA .syscallSp (s.callTo (s.reg rA) .rom)

/-- `syscall Addr16` (R294). -/
def execSyscallI (addr : Word) (s : State) : Outcome :=
  s.callTo addr .rom

/-- `enter rA` (R295); `enter sp` is reserved (R304). -/
def execEnterR (rA : Reg) (s : State) : Outcome :=
  unlessSp rA .enterSp (s.callTo (s.reg rA) .ram)

/-- `enter Addr16` (R296). -/
def execEnterI (addr : Word) (s : State) : Outcome :=
  s.callTo addr .ram

/-- `ret` (R297): the memory space is unchanged. -/
def execRet (s : State) : Outcome :=
  s.returnTo s.ms

/-- `sysret` (R298): always to RAM. -/
def execSysret (s : State) : Outcome :=
  s.returnTo .ram

/-- `exit` (R299): always to ROM; a return, not a stop. -/
def execExit (s : State) : Outcome :=
  s.returnTo .rom

end Sys2Proof.Machine
end

