-- ==== Sys2Proof/Machine/Jumps.lean ====
section
/-! DEFINITION. The sixteen jumps (R260 to R279): register form and immediate form of the eight conditions. -/

namespace Sys2Proof.Machine

/-- `jmp rA` (R264). -/
def execJmpR (rA : Reg) (s : State) : Outcome :=
  .next (s.jump .jmp (s.reg rA))

/-- `jz rA` (R265). -/
def execJzR (rA : Reg) (s : State) : Outcome :=
  .next (s.jump .jz (s.reg rA))

/-- `jnz rA` (R266). -/
def execJnzR (rA : Reg) (s : State) : Outcome :=
  .next (s.jump .jnz (s.reg rA))

/-- `jc rA` (R267). -/
def execJcR (rA : Reg) (s : State) : Outcome :=
  .next (s.jump .jc (s.reg rA))

/-- `jnc rA` (R268). -/
def execJncR (rA : Reg) (s : State) : Outcome :=
  .next (s.jump .jnc (s.reg rA))

/-- `jlt rA` (R269). -/
def execJltR (rA : Reg) (s : State) : Outcome :=
  .next (s.jump .jlt (s.reg rA))

/-- `jle rA` (R270). -/
def execJleR (rA : Reg) (s : State) : Outcome :=
  .next (s.jump .jle (s.reg rA))

/-- `jleu rA` (R271). -/
def execJleuR (rA : Reg) (s : State) : Outcome :=
  .next (s.jump .jleu (s.reg rA))

/-- `jmp Addr16` (R272). -/
def execJmpI (addr : Word) (s : State) : Outcome :=
  .next (s.jump .jmp addr)

/-- `jz Addr16` (R273). -/
def execJzI (addr : Word) (s : State) : Outcome :=
  .next (s.jump .jz addr)

/-- `jnz Addr16` (R274). -/
def execJnzI (addr : Word) (s : State) : Outcome :=
  .next (s.jump .jnz addr)

/-- `jc Addr16` (R275). -/
def execJcI (addr : Word) (s : State) : Outcome :=
  .next (s.jump .jc addr)

/-- `jnc Addr16` (R276). -/
def execJncI (addr : Word) (s : State) : Outcome :=
  .next (s.jump .jnc addr)

/-- `jlt Addr16` (R277). -/
def execJltI (addr : Word) (s : State) : Outcome :=
  .next (s.jump .jlt addr)

/-- `jle Addr16` (R278). -/
def execJleI (addr : Word) (s : State) : Outcome :=
  .next (s.jump .jle addr)

/-- `jleu Addr16` (R279). -/
def execJleuI (addr : Word) (s : State) : Outcome :=
  .next (s.jump .jleu addr)

end Sys2Proof.Machine
end

