-- ==== Sys2Proof/Machine/MemX.lean ====
section
/-! DEFINITION. `movb`, `swap` and `peek` (R220, R230, R232). None of them changes a flag (R235). -/

namespace Sys2Proof.Machine

/-- `movb rD, [rA+Imm16]`: the low byte of the word, sign extended (R220). -/
def execMovb (rD rA : Reg) (imm : Word) (s : State) : Outcome :=
  s.onStorage (s.indexed rA imm) (.next (s.loadByte rD (s.indexed rA imm)))

/-- `swap rD, [rA+Imm16]`: the address is computed once, from the old `x[A]` (R230; log 23). -/
def execSwap (rD rA : Reg) (imm : Word) (s : State) : Outcome :=
  s.onStorage (s.indexed rA imm) (.next (s.exchange rD (s.indexed rA imm)))

/-- `peek rD, [rA+Imm16], W`: reads program memory whatever `ms` is (R232). -/
def execPeek (rD rA : Reg) (imm : Word) (half : RomHalf) (s : State) : Outcome :=
  s.peekAt rD (s.indexed rA imm) half

end Sys2Proof.Machine
end

