-- ==== Sys2Proof/Machine/Shifts.lean ====
section
/-! DEFINITION. The three shifts (R210 to R216). -/

namespace Sys2Proof.Machine

/-- `sll rD, rA, Imm4`, Shift Left Logical (R211); a shift by 0 is a NOP (R214). -/
def execSll (rD rA : Reg) (amount : BitVec 4) (s : State) : Outcome :=
  .next (s.shift .sll rD rA amount)

/-- `srl rD, rA, Imm4`, Shift Right Logical (R212); a shift by 0 is a NOP (R214). -/
def execSrl (rD rA : Reg) (amount : BitVec 4) (s : State) : Outcome :=
  .next (s.shift .srl rD rA amount)

/-- `sra rD, rA, Imm4`, Shift Right Arithmetic (R213); a shift by 0 is a NOP (R214). -/
def execSra (rD rA : Reg) (amount : BitVec 4) (s : State) : Outcome :=
  .next (s.shift .sra rD rA amount)

end Sys2Proof.Machine
end

