-- ==== Sys2Proof/Machine/Stack.lean ====
section
/-! DEFINITION. The five stack instructions (R242 to R248). -/

namespace Sys2Proof.Machine

/-- `push rB` (R242); `push sp` is reserved (R247). -/
def execPushR (rB : Reg) (s : State) : Outcome :=
  unlessSp rB .pushSp (s.pushThenAdvance (s.reg rB))

/-- `push Imm16` (R243). -/
def execPushI (imm : Word) (s : State) : Outcome :=
  s.pushThenAdvance imm

/-- `pushf` (R244): the twelve bits that hold no flag are drawn (U7). -/
def execPushf (s : State) : Outcome :=
  s.onStorage s.pushAddress (.next ((s.push s.flagsWord).addDraws 1).advance)

/-- `pop rD` (R245); `pop sp` is reserved (R247). -/
def execPop (rD : Reg) (s : State) : Outcome :=
  unlessSp rD .popSp (s.popToReg rD)

/-- `popf` (R246): the flags come from memory, not from an ALU result. -/
def execPopf (s : State) : Outcome :=
  s.popToFlags

end Sys2Proof.Machine
end

