-- ==== Sys2Proof/Machine/Dispatch.lean ====
section
/-! DEFINITION. The meaning of each instruction: one arm per constructor of `Instr`, one direct call each. -/

namespace Sys2Proof.Machine

/-- The meaning of an instruction. -/
def exec (i : Instr) (s : State) : Host.Outcome State Fault Refusal :=
  match i with
  | .movRR rD rB => Sys2Proof.Machine.execMovRR rD rB s
  | .andRR rD rA rB => Sys2Proof.Machine.execAndRR rD rA rB s
  | .orRR rD rA rB => Sys2Proof.Machine.execOrRR rD rA rB s
  | .xorRR rD rA rB => Sys2Proof.Machine.execXorRR rD rA rB s
  | .addRR rD rA rB => Sys2Proof.Machine.execAddRR rD rA rB s
  | .subRR rD rA rB => Sys2Proof.Machine.execSubRR rD rA rB s
  | .addcRR rD rA rB => Sys2Proof.Machine.execAddcRR rD rA rB s
  | .subbRR rD rA rB => Sys2Proof.Machine.execSubbRR rD rA rB s
  | .movRI rD imm => Sys2Proof.Machine.execMovRI rD imm s
  | .andRI rD rA imm => Sys2Proof.Machine.execAndRI rD rA imm s
  | .orRI rD rA imm => Sys2Proof.Machine.execOrRI rD rA imm s
  | .xorRI rD rA imm => Sys2Proof.Machine.execXorRI rD rA imm s
  | .addRI rD rA imm => Sys2Proof.Machine.execAddRI rD rA imm s
  | .subRI rD rA imm => Sys2Proof.Machine.execSubRI rD rA imm s
  | .addcRI rD rA imm => Sys2Proof.Machine.execAddcRI rD rA imm s
  | .subbRI rD rA imm => Sys2Proof.Machine.execSubbRI rD rA imm s
  | .movRD rD addr => Sys2Proof.Machine.execMovRD rD addr s
  | .andRD rD rA addr => Sys2Proof.Machine.execAndRD rD rA addr s
  | .orRD rD rA addr => Sys2Proof.Machine.execOrRD rD rA addr s
  | .xorRD rD rA addr => Sys2Proof.Machine.execXorRD rD rA addr s
  | .addRD rD rA addr => Sys2Proof.Machine.execAddRD rD rA addr s
  | .subRD rD rA addr => Sys2Proof.Machine.execSubRD rD rA addr s
  | .addcRD rD rA addr => Sys2Proof.Machine.execAddcRD rD rA addr s
  | .subbRD rD rA addr => Sys2Proof.Machine.execSubbRD rD rA addr s
  | .movRN rD rB => Sys2Proof.Machine.execMovRN rD rB s
  | .andRN rD rA rB => Sys2Proof.Machine.execAndRN rD rA rB s
  | .orRN rD rA rB => Sys2Proof.Machine.execOrRN rD rA rB s
  | .xorRN rD rA rB => Sys2Proof.Machine.execXorRN rD rA rB s
  | .addRN rD rA rB => Sys2Proof.Machine.execAddRN rD rA rB s
  | .subRN rD rA rB => Sys2Proof.Machine.execSubRN rD rA rB s
  | .addcRN rD rA rB => Sys2Proof.Machine.execAddcRN rD rA rB s
  | .subbRN rD rA rB => Sys2Proof.Machine.execSubbRN rD rA rB s
  | .movRX rD rA imm => Sys2Proof.Machine.execMovRX rD rA imm s
  | .andRX rD rA imm => Sys2Proof.Machine.execAndRX rD rA imm s
  | .orRX rD rA imm => Sys2Proof.Machine.execOrRX rD rA imm s
  | .xorRX rD rA imm => Sys2Proof.Machine.execXorRX rD rA imm s
  | .addRX rD rA imm => Sys2Proof.Machine.execAddRX rD rA imm s
  | .subRX rD rA imm => Sys2Proof.Machine.execSubRX rD rA imm s
  | .addcRX rD rA imm => Sys2Proof.Machine.execAddcRX rD rA imm s
  | .subbRX rD rA imm => Sys2Proof.Machine.execSubbRX rD rA imm s
  | .movMD addr rA => Sys2Proof.Machine.execMovMD addr rA s
  | .andMD addr rA => Sys2Proof.Machine.execAndMD addr rA s
  | .orMD addr rA => Sys2Proof.Machine.execOrMD addr rA s
  | .xorMD addr rA => Sys2Proof.Machine.execXorMD addr rA s
  | .addMD addr rA => Sys2Proof.Machine.execAddMD addr rA s
  | .subMD addr rA => Sys2Proof.Machine.execSubMD addr rA s
  | .addcMD addr rA => Sys2Proof.Machine.execAddcMD addr rA s
  | .subbMD addr rA => Sys2Proof.Machine.execSubbMD addr rA s
  | .movMN rA rB => Sys2Proof.Machine.execMovMN rA rB s
  | .andMN rA rB => Sys2Proof.Machine.execAndMN rA rB s
  | .orMN rA rB => Sys2Proof.Machine.execOrMN rA rB s
  | .xorMN rA rB => Sys2Proof.Machine.execXorMN rA rB s
  | .addMN rA rB => Sys2Proof.Machine.execAddMN rA rB s
  | .subMN rA rB => Sys2Proof.Machine.execSubMN rA rB s
  | .addcMN rA rB => Sys2Proof.Machine.execAddcMN rA rB s
  | .subbMN rA rB => Sys2Proof.Machine.execSubbMN rA rB s
  | .movMX rA imm rB => Sys2Proof.Machine.execMovMX rA imm rB s
  | .andMX rA imm rB => Sys2Proof.Machine.execAndMX rA imm rB s
  | .orMX rA imm rB => Sys2Proof.Machine.execOrMX rA imm rB s
  | .xorMX rA imm rB => Sys2Proof.Machine.execXorMX rA imm rB s
  | .addMX rA imm rB => Sys2Proof.Machine.execAddMX rA imm rB s
  | .subMX rA imm rB => Sys2Proof.Machine.execSubMX rA imm rB s
  | .addcMX rA imm rB => Sys2Proof.Machine.execAddcMX rA imm rB s
  | .subbMX rA imm rB => Sys2Proof.Machine.execSubbMX rA imm rB s
  | .sll rD rA amount => Sys2Proof.Machine.execSll rD rA amount s
  | .srl rD rA amount => Sys2Proof.Machine.execSrl rD rA amount s
  | .sra rD rA amount => Sys2Proof.Machine.execSra rD rA amount s
  | .movb rD rA imm => Sys2Proof.Machine.execMovb rD rA imm s
  | .swap rD rA imm => Sys2Proof.Machine.execSwap rD rA imm s
  | .peek rD rA imm half => Sys2Proof.Machine.execPeek rD rA imm half s
  | .pushR rB => Sys2Proof.Machine.execPushR rB s
  | .pushI imm => Sys2Proof.Machine.execPushI imm s
  | .pushf => Sys2Proof.Machine.execPushf s
  | .pop rD => Sys2Proof.Machine.execPop rD s
  | .popf => Sys2Proof.Machine.execPopf s
  | .jmpR rA => Sys2Proof.Machine.execJmpR rA s
  | .jzR rA => Sys2Proof.Machine.execJzR rA s
  | .jnzR rA => Sys2Proof.Machine.execJnzR rA s
  | .jcR rA => Sys2Proof.Machine.execJcR rA s
  | .jncR rA => Sys2Proof.Machine.execJncR rA s
  | .jltR rA => Sys2Proof.Machine.execJltR rA s
  | .jleR rA => Sys2Proof.Machine.execJleR rA s
  | .jleuR rA => Sys2Proof.Machine.execJleuR rA s
  | .jmpI addr => Sys2Proof.Machine.execJmpI addr s
  | .jzI addr => Sys2Proof.Machine.execJzI addr s
  | .jnzI addr => Sys2Proof.Machine.execJnzI addr s
  | .jcI addr => Sys2Proof.Machine.execJcI addr s
  | .jncI addr => Sys2Proof.Machine.execJncI addr s
  | .jltI addr => Sys2Proof.Machine.execJltI addr s
  | .jleI addr => Sys2Proof.Machine.execJleI addr s
  | .jleuI addr => Sys2Proof.Machine.execJleuI addr s
  | .callR rA => Sys2Proof.Machine.execCallR rA s
  | .callI addr => Sys2Proof.Machine.execCallI addr s
  | .syscallR rA => Sys2Proof.Machine.execSyscallR rA s
  | .syscallI addr => Sys2Proof.Machine.execSyscallI addr s
  | .enterR rA => Sys2Proof.Machine.execEnterR rA s
  | .enterI addr => Sys2Proof.Machine.execEnterI addr s
  | .ret => Sys2Proof.Machine.execRet s
  | .sysret => Sys2Proof.Machine.execSysret s
  | .exit => Sys2Proof.Machine.execExit s

end Sys2Proof.Machine
end

