-- ==== Sys2Proof/Decode.lean ====
section
/-! DEFINITION. The decoder (R60 to R74), total on every pair of words and rejecting by name, and after it the encoder,
written from the same formats (R62). Both take the assignment of the numbers that the source lost (R67 to R69, R71); the
spec's default assignment is `defaultOpcodes`.

R74 tests `op[15:11]`, `op[15:12]` or the whole high byte; here the same tests are written on the four nibbles
`op[15:12]`, `op[11:8]`, `op[7:4]`, `op[3:0]`, with `op[11]` the top bit of the second. -/

namespace Sys2Proof

/-! ## The spec's default numbers -/

/-- The default of `ALU_FUNCT` (R67). -/
def defaultAluFunct : AluOp → BitVec 3
  | .mov => 0b000#3
  | .and => 0b001#3
  | .or => 0b010#3
  | .xor => 0b011#3
  | .add => 0b100#3
  | .sub => 0b101#3
  | .addc => 0b110#3
  | .subb => 0b111#3

/-- The default of `JMP_FUNCT` (R68). -/
def defaultJmpFunct : Cond → BitVec 3
  | .jmp => 0b000#3
  | .jz => 0b001#3
  | .jnz => 0b010#3
  | .jc => 0b011#3
  | .jnc => 0b100#3
  | .jlt => 0b101#3
  | .jle => 0b110#3
  | .jleu => 0b111#3

/-- The default assignment (R67, R68, R71). -/
def defaultOpcodes : OpcodeAssignment where
  aluFunct := defaultAluFunct
  jmpFunct := defaultJmpFunct
  syscallR := 0xD2#8
  syscallI := 0xD3#8
  enterR := 0xD4#8
  enterI := 0xD5#8
  sysret := 0xD7#8
  exit := 0xD8#8

/-- The six bytes of `CALLRET_OPCODES` (R71). -/
def OpcodeAssignment.callretBytes (m : OpcodeAssignment) : List (BitVec 8) :=
  [m.syscallR, m.syscallI, m.enterR, m.enterI, m.sysret, m.exit]

/-- The opcode bytes R70 assigns, less the six of `CALLRET_OPCODES`: `00` to `88`, `C0` to `CF`, `D0`, `D1`, `D6`. -/
def byteAssigned (b : BitVec 8) : Bool :=
  b.toNat ≤ 0x88 || (0xC0 ≤ b.toNat && b.toNat ≤ 0xCF) || b == 0xD0#8 || b == 0xD1#8 || b == 0xD6#8

/-- What a legal assignment is: two bijections, `mov` at 000 (R67, R68), and six distinct bytes that no other instruction
has (`92_eei_decisions.md`, the table of parameters). -/
structure OpcodeAssignment.Legal (m : OpcodeAssignment) : Prop where
  aluFunct_injective : Function.Injective m.aluFunct
  mov_is_zero : m.aluFunct .mov = 0b000#3
  jmpFunct_injective : Function.Injective m.jmpFunct
  callret_distinct : m.callretBytes.Nodup
  callret_unassigned : ∀ b ∈ m.callretBytes, byteAssigned b = false

/-! ## Fields (R61) -/

/-- The register a 4-bit field names (R20). -/
def regOf (f : BitVec 4) : Reg := ⟨f.toNat, f.isLt⟩

/-- The 4-bit field that names a register. -/
def regBits (r : Reg) : BitVec 4 := BitVec.ofNat 4 r.val

/-- `op[15:12]`. -/
def opMajor (op : Word) : BitVec 4 := op.extractLsb' 12 4

/-- `op[11:8]`: `Imm4`, or `op[11]` and `FFF`. -/
def opMinor (op : Word) : BitVec 4 := op.extractLsb' 8 4

/-- `op[7:4]`: `DDDD`, or `BBBB` in the memory-destination indexed form. -/
def opD (op : Word) : BitVec 4 := op.extractLsb' 4 4

/-- `op[3:0]`: `AAAA`, or the constant 0001. -/
def opA (op : Word) : BitVec 4 := op.extractLsb' 0 4

/-- `arg[3:0]`: `BBBB`. -/
def argB (arg : Word) : BitVec 4 := arg.extractLsb' 0 4

/-- `FFF = op[10:8]` (R67, R68). -/
def functOf (minor : BitVec 4) : BitVec 3 := minor.extractLsb' 0 3

/-- All eight ALU operations. -/
def AluOp.all : List AluOp := [.mov, .and, .or, .xor, .add, .sub, .addc, .subb]

/-- All eight jump conditions. -/
def Cond.all : List Cond := [.jmp, .jz, .jnz, .jc, .jnc, .jlt, .jle, .jleu]

/-- `ALU_FUNCT^-1` (R74). -/
def OpcodeAssignment.aluOp? (m : OpcodeAssignment) (f : BitVec 3) : Option AluOp :=
  AluOp.all.find? (fun o => m.aluFunct o == f)

/-- `JMP_FUNCT^-1` (R74). -/
def OpcodeAssignment.cond? (m : OpcodeAssignment) (f : BitVec 3) : Option Cond :=
  Cond.all.find? (fun c => m.jmpFunct c == f)

/-! ## The instruction of an operation in a form -/

/-- `ALU rD, rA, rB` for each of the eight operations (format `ALU_RR`, R101).
`mov` has no first operand (R107): its rA field is dropped. -/
def Instr.aluRR (f : AluOp) (rD rA rB : Reg) : Instr :=
  match f with
  | .mov => .movRR rD rB
  | .and => .andRR rD rA rB
  | .or => .orRR rD rA rB
  | .xor => .xorRR rD rA rB
  | .add => .addRR rD rA rB
  | .sub => .subRR rD rA rB
  | .addc => .addcRR rD rA rB
  | .subb => .subbRR rD rA rB

/-- `ALU rD, rA, Imm16` for each of the eight operations (format `ALU_RI`, R102).
`mov` has no first operand (R107): its rA field is dropped. -/
def Instr.aluRI (f : AluOp) (rD rA : Reg) (imm : Word) : Instr :=
  match f with
  | .mov => .movRI rD imm
  | .and => .andRI rD rA imm
  | .or => .orRI rD rA imm
  | .xor => .xorRI rD rA imm
  | .add => .addRI rD rA imm
  | .sub => .subRI rD rA imm
  | .addc => .addcRI rD rA imm
  | .subb => .subbRI rD rA imm

/-- `ALU rD, rA, [Addr16]` for each of the eight operations (format `ALU_RD`, R103).
`mov` has no first operand (R107): its rA field is dropped. -/
def Instr.aluRD (f : AluOp) (rD rA : Reg) (addr : Word) : Instr :=
  match f with
  | .mov => .movRD rD addr
  | .and => .andRD rD rA addr
  | .or => .orRD rD rA addr
  | .xor => .xorRD rD rA addr
  | .add => .addRD rD rA addr
  | .sub => .subRD rD rA addr
  | .addc => .addcRD rD rA addr
  | .subb => .subbRD rD rA addr

/-- `ALU rD, rA, [rB]` for each of the eight operations (format `ALU_RN`, R104).
`mov` has no first operand (R107): its rA field is dropped. -/
def Instr.aluRN (f : AluOp) (rD rA rB : Reg) : Instr :=
  match f with
  | .mov => .movRN rD rB
  | .and => .andRN rD rA rB
  | .or => .orRN rD rA rB
  | .xor => .xorRN rD rA rB
  | .add => .addRN rD rA rB
  | .sub => .subRN rD rA rB
  | .addc => .addcRN rD rA rB
  | .subb => .subbRN rD rA rB

/-- `ALU rD, [rA+Imm16]` for each of the eight operations (format `ALU_RX`, R105). -/
def Instr.aluRX (f : AluOp) (rD rA : Reg) (imm : Word) : Instr :=
  match f with
  | .mov => .movRX rD rA imm
  | .and => .andRX rD rA imm
  | .or => .orRX rD rA imm
  | .xor => .xorRX rD rA imm
  | .add => .addRX rD rA imm
  | .sub => .subRX rD rA imm
  | .addc => .addcRX rD rA imm
  | .subb => .subbRX rD rA imm

/-- `ALU [Addr16], rA` for each of the eight operations (format `ALU_MD`, R171). -/
def Instr.aluMD (f : AluOp) (addr : Word) (rA : Reg) : Instr :=
  match f with
  | .mov => .movMD addr rA
  | .and => .andMD addr rA
  | .or => .orMD addr rA
  | .xor => .xorMD addr rA
  | .add => .addMD addr rA
  | .sub => .subMD addr rA
  | .addc => .addcMD addr rA
  | .subb => .subbMD addr rA

/-- `ALU [rA], rB` for each of the eight operations (format `ALU_MN`, R172). -/
def Instr.aluMN (f : AluOp) (rA rB : Reg) : Instr :=
  match f with
  | .mov => .movMN rA rB
  | .and => .andMN rA rB
  | .or => .orMN rA rB
  | .xor => .xorMN rA rB
  | .add => .addMN rA rB
  | .sub => .subMN rA rB
  | .addc => .addcMN rA rB
  | .subb => .subbMN rA rB

/-- `ALU [rA+Imm16], rB` for each of the eight operations (format `ALU_MX`, R173). -/
def Instr.aluMX (f : AluOp) (rA : Reg) (imm : Word) (rB : Reg) : Instr :=
  match f with
  | .mov => .movMX rA imm rB
  | .and => .andMX rA imm rB
  | .or => .orMX rA imm rB
  | .xor => .xorMX rA imm rB
  | .add => .addMX rA imm rB
  | .sub => .subMX rA imm rB
  | .addc => .addcMX rA imm rB
  | .subb => .subbMX rA imm rB

/-- The jump of each condition, register form (R262). -/
def Instr.jumpR (c : Cond) (rA : Reg) : Instr :=
  match c with
  | .jmp => .jmpR rA
  | .jz => .jzR rA
  | .jnz => .jnzR rA
  | .jc => .jcR rA
  | .jnc => .jncR rA
  | .jlt => .jltR rA
  | .jle => .jleR rA
  | .jleu => .jleuR rA

/-- The jump of each condition, immediate form (R263). -/
def Instr.jumpI (c : Cond) (addr : Word) : Instr :=
  match c with
  | .jmp => .jmpI addr
  | .jz => .jzI addr
  | .jnz => .jnzI addr
  | .jc => .jcI addr
  | .jnc => .jncI addr
  | .jlt => .jltI addr
  | .jle => .jleI addr
  | .jleu => .jleuI addr

/-! ## Decoding (R74) -/

/-- The outcome of decoding. -/
abbrev Decoded := Except DecodeReject Instr

/-- Continue with the ALU operation that `FFF` selects. -/
def OpcodeAssignment.withAluOp (m : OpcodeAssignment) (f : BitVec 3) (k : AluOp → Instr) : Decoded :=
  match m.aluOp? f with
  | some o => .ok (k o)
  | none => .error .unassignedOpcode

/-- Continue with the jump condition that `FFF` selects. -/
def OpcodeAssignment.withCond (m : OpcodeAssignment) (f : BitVec 3) (k : Cond → Instr) : Decoded :=
  match m.cond? f with
  | some c => .ok (k c)
  | none => .error .unassignedOpcode

/-- An instruction whose format has the constant 0001 in `op[3:0]` (R66). -/
def needs0001 (a : BitVec 4) (i : Instr) : Decoded :=
  if a = 0b0001#4 then .ok i else .error .constantFieldNot0001

/-- The opcode bytes `80` to `88` (R70): `movb`, `swap`, `peek` and the stack instructions. -/
def decodeMemStack (minor d a : BitVec 4) (arg : Word) : Decoded :=
  if minor = 0x0#4 then .ok (.movb (regOf d) (regOf a) arg)
  else if minor = 0x1#4 then .ok (.swap (regOf d) (regOf a) arg)
  else if minor = 0x2#4 then .ok (.peek (regOf d) (regOf a) arg .lower)
  else if minor = 0x3#4 then .ok (.peek (regOf d) (regOf a) arg .upper)
  else if minor = 0x4#4 then needs0001 a (.pushR (regOf (argB arg)))
  else if minor = 0x5#4 then needs0001 a (.pushI arg)
  else if minor = 0x6#4 then needs0001 a .pushf
  else if minor = 0x7#4 then needs0001 a (.pop (regOf d))
  else needs0001 a .popf

/-- The call and return bytes (R70, R71); any other byte that reaches here is unassigned (R72). -/
def OpcodeAssignment.decodeCallRet (m : OpcodeAssignment) (b : BitVec 8) (a : BitVec 4) (arg : Word) : Decoded :=
  if b = 0xD0#8 then .ok (.callR (regOf a))
  else if b = 0xD1#8 then needs0001 a (.callI arg)
  else if b = m.syscallR then .ok (.syscallR (regOf a))
  else if b = m.syscallI then needs0001 a (.syscallI arg)
  else if b = m.enterR then .ok (.enterR (regOf a))
  else if b = m.enterI then needs0001 a (.enterI arg)
  else if b = 0xD6#8 then needs0001 a .ret
  else if b = m.sysret then needs0001 a .sysret
  else if b = m.exit then needs0001 a .exit
  else .error .unassignedOpcode

/-- R74 on the fields of the opcode word. -/
def OpcodeAssignment.decodeFields (m : OpcodeAssignment) (major minor d a : BitVec 4) (arg : Word) : Decoded :=
  let rD := regOf d
  let rA := regOf a
  let rB := regOf (argB arg)
  let f := functOf minor
  if major = 0x0#4 then
    if minor.msb then m.withAluOp f (Instr.aluRI · rD rA arg) else m.withAluOp f (Instr.aluRR · rD rA rB)
  else if major = 0x1#4 then .ok (.sll rD rA minor)
  else if major = 0x2#4 then .ok (.srl rD rA minor)
  else if major = 0x3#4 then .ok (.sra rD rA minor)
  else if major = 0x4#4 then
    if minor.msb then m.withAluOp f (Instr.aluRN · rD rA rB) else m.withAluOp f (Instr.aluRD · rD rA arg)
  else if major = 0x5#4 then m.withAluOp f (Instr.aluRX · rD rA arg)
  else if major = 0x6#4 then
    if minor.msb then m.withAluOp f (Instr.aluMN · rA rB) else m.withAluOp f (Instr.aluMD · arg rA)
  else if major = 0x7#4 then m.withAluOp f (Instr.aluMX · rA arg rD)
  else if major = 0x8#4 ∧ minor.toNat ≤ 8 then decodeMemStack minor d a arg
  else if major = 0xC#4 then
    if minor.msb then m.withCond f (Instr.jumpI · arg) else m.withCond f (Instr.jumpR · rA)
  else m.decodeCallRet (major ++ minor) a arg

/-- The decoder: opcode word, argument word (R74). -/
def decodeWith (m : OpcodeAssignment) (op arg : Word) : Decoded :=
  m.decodeFields (opMajor op) (opMinor op) (opD op) (opA op) arg

/-- The decoder at the spec's default numbers. -/
def decode (op arg : Word) : Decoded := decodeWith defaultOpcodes op arg

/-- The opcode word of a 32-bit instruction, `I[31:16]` (R7, R60). -/
def opWord (I : RomWord) : Word := I.extractLsb' 16 16

/-- The argument word of a 32-bit instruction, `I[15:0]` (R7, R60). -/
def argWord (I : RomWord) : Word := I.extractLsb' 0 16

/-- The 32-bit instruction of an opcode word and an argument word (R7). -/
def joinWords (op arg : Word) : RomWord := op ++ arg

/-- The 32-bit instruction whose low `nbits` bits are `w`, numbered as opcode_table.json numbers them: bit 31 is the top
bit of the opcode word (98_reader.md; log 29). -/
def tableWord (nbits w : Nat) : RomWord := BitVec.ofNat 32 (w % 2 ^ nbits)

/-- The host's question: what the decoder reads from an instruction whose bits are `w`. -/
def decodeTableWord (nbits w : Nat) : Option Instr :=
  match decode (opWord (tableWord nbits w)) (argWord (tableWord nbits w)) with
  | .ok i => some i
  | .error _ => none

/-! ## Encoding (R62, R90) -/

/-- The four nibbles of an opcode word. -/
def packOp (major minor d a : BitVec 4) : Word := major ++ minor ++ d ++ a

/-- `op[11]` and `FFF`. -/
def packFunct (x : Bool) (f : BitVec 3) : BitVec 4 := BitVec.ofBool x ++ f

/-- An opcode word whose high byte is a given byte. -/
def packByte (b : BitVec 8) (d a : BitVec 4) : Word := packOp (b.extractLsb' 4 4) (b.extractLsb' 0 4) d a

/-- An argument word that holds only `BBBB`. -/
def packB (rB : Reg) : Word := 0x000#12 ++ regBits rB

/-- The opcode word of an instruction; every `X` bit and the unused rA field of `mov` are 0 (R62, R65, R90). -/
def encodeOp (m : OpcodeAssignment) : Instr → Word
  | .movRR rD _ => packOp 0x0#4 (packFunct false (m.aluFunct .mov)) (regBits rD) 0
  | .andRR rD rA _ => packOp 0x0#4 (packFunct false (m.aluFunct .and)) (regBits rD) (regBits rA)
  | .orRR rD rA _ => packOp 0x0#4 (packFunct false (m.aluFunct .or)) (regBits rD) (regBits rA)
  | .xorRR rD rA _ => packOp 0x0#4 (packFunct false (m.aluFunct .xor)) (regBits rD) (regBits rA)
  | .addRR rD rA _ => packOp 0x0#4 (packFunct false (m.aluFunct .add)) (regBits rD) (regBits rA)
  | .subRR rD rA _ => packOp 0x0#4 (packFunct false (m.aluFunct .sub)) (regBits rD) (regBits rA)
  | .addcRR rD rA _ => packOp 0x0#4 (packFunct false (m.aluFunct .addc)) (regBits rD) (regBits rA)
  | .subbRR rD rA _ => packOp 0x0#4 (packFunct false (m.aluFunct .subb)) (regBits rD) (regBits rA)
  | .movRI rD _ => packOp 0x0#4 (packFunct true (m.aluFunct .mov)) (regBits rD) 0
  | .andRI rD rA _ => packOp 0x0#4 (packFunct true (m.aluFunct .and)) (regBits rD) (regBits rA)
  | .orRI rD rA _ => packOp 0x0#4 (packFunct true (m.aluFunct .or)) (regBits rD) (regBits rA)
  | .xorRI rD rA _ => packOp 0x0#4 (packFunct true (m.aluFunct .xor)) (regBits rD) (regBits rA)
  | .addRI rD rA _ => packOp 0x0#4 (packFunct true (m.aluFunct .add)) (regBits rD) (regBits rA)
  | .subRI rD rA _ => packOp 0x0#4 (packFunct true (m.aluFunct .sub)) (regBits rD) (regBits rA)
  | .addcRI rD rA _ => packOp 0x0#4 (packFunct true (m.aluFunct .addc)) (regBits rD) (regBits rA)
  | .subbRI rD rA _ => packOp 0x0#4 (packFunct true (m.aluFunct .subb)) (regBits rD) (regBits rA)
  | .movRD rD _ => packOp 0x4#4 (packFunct false (m.aluFunct .mov)) (regBits rD) 0
  | .andRD rD rA _ => packOp 0x4#4 (packFunct false (m.aluFunct .and)) (regBits rD) (regBits rA)
  | .orRD rD rA _ => packOp 0x4#4 (packFunct false (m.aluFunct .or)) (regBits rD) (regBits rA)
  | .xorRD rD rA _ => packOp 0x4#4 (packFunct false (m.aluFunct .xor)) (regBits rD) (regBits rA)
  | .addRD rD rA _ => packOp 0x4#4 (packFunct false (m.aluFunct .add)) (regBits rD) (regBits rA)
  | .subRD rD rA _ => packOp 0x4#4 (packFunct false (m.aluFunct .sub)) (regBits rD) (regBits rA)
  | .addcRD rD rA _ => packOp 0x4#4 (packFunct false (m.aluFunct .addc)) (regBits rD) (regBits rA)
  | .subbRD rD rA _ => packOp 0x4#4 (packFunct false (m.aluFunct .subb)) (regBits rD) (regBits rA)
  | .movRN rD _ => packOp 0x4#4 (packFunct true (m.aluFunct .mov)) (regBits rD) 0
  | .andRN rD rA _ => packOp 0x4#4 (packFunct true (m.aluFunct .and)) (regBits rD) (regBits rA)
  | .orRN rD rA _ => packOp 0x4#4 (packFunct true (m.aluFunct .or)) (regBits rD) (regBits rA)
  | .xorRN rD rA _ => packOp 0x4#4 (packFunct true (m.aluFunct .xor)) (regBits rD) (regBits rA)
  | .addRN rD rA _ => packOp 0x4#4 (packFunct true (m.aluFunct .add)) (regBits rD) (regBits rA)
  | .subRN rD rA _ => packOp 0x4#4 (packFunct true (m.aluFunct .sub)) (regBits rD) (regBits rA)
  | .addcRN rD rA _ => packOp 0x4#4 (packFunct true (m.aluFunct .addc)) (regBits rD) (regBits rA)
  | .subbRN rD rA _ => packOp 0x4#4 (packFunct true (m.aluFunct .subb)) (regBits rD) (regBits rA)
  | .movRX rD rA _ => packOp 0x5#4 (packFunct false (m.aluFunct .mov)) (regBits rD) (regBits rA)
  | .andRX rD rA _ => packOp 0x5#4 (packFunct false (m.aluFunct .and)) (regBits rD) (regBits rA)
  | .orRX rD rA _ => packOp 0x5#4 (packFunct false (m.aluFunct .or)) (regBits rD) (regBits rA)
  | .xorRX rD rA _ => packOp 0x5#4 (packFunct false (m.aluFunct .xor)) (regBits rD) (regBits rA)
  | .addRX rD rA _ => packOp 0x5#4 (packFunct false (m.aluFunct .add)) (regBits rD) (regBits rA)
  | .subRX rD rA _ => packOp 0x5#4 (packFunct false (m.aluFunct .sub)) (regBits rD) (regBits rA)
  | .addcRX rD rA _ => packOp 0x5#4 (packFunct false (m.aluFunct .addc)) (regBits rD) (regBits rA)
  | .subbRX rD rA _ => packOp 0x5#4 (packFunct false (m.aluFunct .subb)) (regBits rD) (regBits rA)
  | .movMD _ rA => packOp 0x6#4 (packFunct false (m.aluFunct .mov)) 0 (regBits rA)
  | .andMD _ rA => packOp 0x6#4 (packFunct false (m.aluFunct .and)) 0 (regBits rA)
  | .orMD _ rA => packOp 0x6#4 (packFunct false (m.aluFunct .or)) 0 (regBits rA)
  | .xorMD _ rA => packOp 0x6#4 (packFunct false (m.aluFunct .xor)) 0 (regBits rA)
  | .addMD _ rA => packOp 0x6#4 (packFunct false (m.aluFunct .add)) 0 (regBits rA)
  | .subMD _ rA => packOp 0x6#4 (packFunct false (m.aluFunct .sub)) 0 (regBits rA)
  | .addcMD _ rA => packOp 0x6#4 (packFunct false (m.aluFunct .addc)) 0 (regBits rA)
  | .subbMD _ rA => packOp 0x6#4 (packFunct false (m.aluFunct .subb)) 0 (regBits rA)
  | .movMN rA _ => packOp 0x6#4 (packFunct true (m.aluFunct .mov)) 0 (regBits rA)
  | .andMN rA _ => packOp 0x6#4 (packFunct true (m.aluFunct .and)) 0 (regBits rA)
  | .orMN rA _ => packOp 0x6#4 (packFunct true (m.aluFunct .or)) 0 (regBits rA)
  | .xorMN rA _ => packOp 0x6#4 (packFunct true (m.aluFunct .xor)) 0 (regBits rA)
  | .addMN rA _ => packOp 0x6#4 (packFunct true (m.aluFunct .add)) 0 (regBits rA)
  | .subMN rA _ => packOp 0x6#4 (packFunct true (m.aluFunct .sub)) 0 (regBits rA)
  | .addcMN rA _ => packOp 0x6#4 (packFunct true (m.aluFunct .addc)) 0 (regBits rA)
  | .subbMN rA _ => packOp 0x6#4 (packFunct true (m.aluFunct .subb)) 0 (regBits rA)
  | .movMX rA _ rB => packOp 0x7#4 (packFunct false (m.aluFunct .mov)) (regBits rB) (regBits rA)
  | .andMX rA _ rB => packOp 0x7#4 (packFunct false (m.aluFunct .and)) (regBits rB) (regBits rA)
  | .orMX rA _ rB => packOp 0x7#4 (packFunct false (m.aluFunct .or)) (regBits rB) (regBits rA)
  | .xorMX rA _ rB => packOp 0x7#4 (packFunct false (m.aluFunct .xor)) (regBits rB) (regBits rA)
  | .addMX rA _ rB => packOp 0x7#4 (packFunct false (m.aluFunct .add)) (regBits rB) (regBits rA)
  | .subMX rA _ rB => packOp 0x7#4 (packFunct false (m.aluFunct .sub)) (regBits rB) (regBits rA)
  | .addcMX rA _ rB => packOp 0x7#4 (packFunct false (m.aluFunct .addc)) (regBits rB) (regBits rA)
  | .subbMX rA _ rB => packOp 0x7#4 (packFunct false (m.aluFunct .subb)) (regBits rB) (regBits rA)
  | .sll rD rA n => packOp 0x1#4 n (regBits rD) (regBits rA)
  | .srl rD rA n => packOp 0x2#4 n (regBits rD) (regBits rA)
  | .sra rD rA n => packOp 0x3#4 n (regBits rD) (regBits rA)
  | .movb rD rA _ => packByte 0x80#8 (regBits rD) (regBits rA)
  | .swap rD rA _ => packByte 0x81#8 (regBits rD) (regBits rA)
  | .peek rD rA _ .lower => packByte 0x82#8 (regBits rD) (regBits rA)
  | .peek rD rA _ .upper => packByte 0x83#8 (regBits rD) (regBits rA)
  | .pushR _ => packByte 0x84#8 0 1
  | .pushI _ => packByte 0x85#8 0 1
  | .pushf => packByte 0x86#8 0 1
  | .pop rD => packByte 0x87#8 (regBits rD) 1
  | .popf => packByte 0x88#8 0 1
  | .jmpR rA => packOp 0xC#4 (packFunct false (m.jmpFunct .jmp)) 0 (regBits rA)
  | .jzR rA => packOp 0xC#4 (packFunct false (m.jmpFunct .jz)) 0 (regBits rA)
  | .jnzR rA => packOp 0xC#4 (packFunct false (m.jmpFunct .jnz)) 0 (regBits rA)
  | .jcR rA => packOp 0xC#4 (packFunct false (m.jmpFunct .jc)) 0 (regBits rA)
  | .jncR rA => packOp 0xC#4 (packFunct false (m.jmpFunct .jnc)) 0 (regBits rA)
  | .jltR rA => packOp 0xC#4 (packFunct false (m.jmpFunct .jlt)) 0 (regBits rA)
  | .jleR rA => packOp 0xC#4 (packFunct false (m.jmpFunct .jle)) 0 (regBits rA)
  | .jleuR rA => packOp 0xC#4 (packFunct false (m.jmpFunct .jleu)) 0 (regBits rA)
  | .jmpI _ => packOp 0xC#4 (packFunct true (m.jmpFunct .jmp)) 0 0
  | .jzI _ => packOp 0xC#4 (packFunct true (m.jmpFunct .jz)) 0 0
  | .jnzI _ => packOp 0xC#4 (packFunct true (m.jmpFunct .jnz)) 0 0
  | .jcI _ => packOp 0xC#4 (packFunct true (m.jmpFunct .jc)) 0 0
  | .jncI _ => packOp 0xC#4 (packFunct true (m.jmpFunct .jnc)) 0 0
  | .jltI _ => packOp 0xC#4 (packFunct true (m.jmpFunct .jlt)) 0 0
  | .jleI _ => packOp 0xC#4 (packFunct true (m.jmpFunct .jle)) 0 0
  | .jleuI _ => packOp 0xC#4 (packFunct true (m.jmpFunct .jleu)) 0 0
  | .callR rA => packByte 0xD0#8 0 (regBits rA)
  | .callI _ => packByte 0xD1#8 0 1
  | .syscallR rA => packByte m.syscallR 0 (regBits rA)
  | .syscallI _ => packByte m.syscallI 0 1
  | .enterR rA => packByte m.enterR 0 (regBits rA)
  | .enterI _ => packByte m.enterI 0 1
  | .ret => packByte 0xD6#8 0 1
  | .sysret => packByte m.sysret 0 1
  | .exit => packByte m.exit 0 1

/-- The argument word of an instruction; an unused one is 0 (R62, R65, R90). -/
def encodeArg : Instr → Word
  | .movRR _ rB => packB rB
  | .andRR _ _ rB | .orRR _ _ rB | .xorRR _ _ rB | .addRR _ _ rB | .subRR _ _ rB | .addcRR _ _ rB
    | .subbRR _ _ rB => packB rB
  | .movRI _ imm => imm
  | .andRI _ _ imm | .orRI _ _ imm | .xorRI _ _ imm | .addRI _ _ imm | .subRI _ _ imm | .addcRI _ _ imm
    | .subbRI _ _ imm => imm
  | .movRD _ addr => addr
  | .andRD _ _ addr | .orRD _ _ addr | .xorRD _ _ addr | .addRD _ _ addr | .subRD _ _ addr | .addcRD _ _ addr
    | .subbRD _ _ addr => addr
  | .movRN _ rB => packB rB
  | .andRN _ _ rB | .orRN _ _ rB | .xorRN _ _ rB | .addRN _ _ rB | .subRN _ _ rB | .addcRN _ _ rB
    | .subbRN _ _ rB => packB rB
  | .movRX _ _ imm => imm
  | .andRX _ _ imm | .orRX _ _ imm | .xorRX _ _ imm | .addRX _ _ imm | .subRX _ _ imm | .addcRX _ _ imm
    | .subbRX _ _ imm => imm
  | .movMD addr _ => addr
  | .andMD addr _ | .orMD addr _ | .xorMD addr _ | .addMD addr _ | .subMD addr _ | .addcMD addr _
    | .subbMD addr _ => addr
  | .movMN _ rB => packB rB
  | .andMN _ rB | .orMN _ rB | .xorMN _ rB | .addMN _ rB | .subMN _ rB | .addcMN _ rB | .subbMN _ rB => packB rB
  | .movMX _ imm _ => imm
  | .andMX _ imm _ | .orMX _ imm _ | .xorMX _ imm _ | .addMX _ imm _ | .subMX _ imm _ | .addcMX _ imm _
    | .subbMX _ imm _ => imm
  | .sll _ _ _ | .srl _ _ _ | .sra _ _ _ => 0
  | .movb _ _ imm | .swap _ _ imm | .peek _ _ imm _ => imm
  | .pushR rB => packB rB
  | .pushI imm => imm
  | .pushf | .pop _ | .popf => 0
  | .jmpR _ | .jzR _ | .jnzR _ | .jcR _ | .jncR _ | .jltR _ | .jleR _ | .jleuR _ => 0
  | .jmpI addr | .jzI addr | .jnzI addr | .jcI addr | .jncI addr | .jltI addr | .jleI addr | .jleuI addr => addr
  | .callR _ | .syscallR _ | .enterR _ => 0
  | .callI addr | .syscallI addr | .enterI addr => addr
  | .ret | .sysret | .exit => 0

/-- The two words of an instruction: opcode word, argument word (R60). -/
def encodeWith (m : OpcodeAssignment) (i : Instr) : Word × Word := (encodeOp m i, encodeArg i)

/-- The encoder at the spec's default numbers. -/
def encode (i : Instr) : Word × Word := encodeWith defaultOpcodes i

/-- The bits of the opcode word that the hardware ignores: the `X` bits and the rA field of `mov` in the forms that do not
use it (R62, R65). -/
def unusedOp : Instr → Word
  | .movRR .. => 0x000F
  | .andRR .. | .orRR .. | .xorRR .. | .addRR .. | .subRR .. | .addcRR .. | .subbRR .. => 0x0000
  | .movRI .. => 0x000F
  | .andRI .. | .orRI .. | .xorRI .. | .addRI .. | .subRI .. | .addcRI .. | .subbRI .. => 0x0000
  | .movRD .. => 0x000F
  | .andRD .. | .orRD .. | .xorRD .. | .addRD .. | .subRD .. | .addcRD .. | .subbRD .. => 0x0000
  | .movRN .. => 0x000F
  | .andRN .. | .orRN .. | .xorRN .. | .addRN .. | .subRN .. | .addcRN .. | .subbRN .. => 0x0000
  | .movRX .. | .andRX .. | .orRX .. | .xorRX .. | .addRX .. | .subRX .. | .addcRX .. | .subbRX .. => 0x0800
  | .movMD .. | .andMD .. | .orMD .. | .xorMD .. | .addMD .. | .subMD .. | .addcMD .. | .subbMD .. => 0x00F0
  | .movMN .. | .andMN .. | .orMN .. | .xorMN .. | .addMN .. | .subMN .. | .addcMN .. | .subbMN .. => 0x00F0
  | .movMX .. | .andMX .. | .orMX .. | .xorMX .. | .addMX .. | .subMX .. | .addcMX .. | .subbMX .. => 0x0800
  | .sll .. | .srl .. | .sra .. | .movb .. | .swap .. | .peek .. => 0x0000
  | .pushR .. | .pushI .. | .pushf | .popf => 0x00F0
  | .pop .. => 0x0000
  | .jmpR .. | .jzR .. | .jnzR .. | .jcR .. | .jncR .. | .jltR .. | .jleR .. | .jleuR .. => 0x00F0
  | .jmpI .. | .jzI .. | .jnzI .. | .jcI .. | .jncI .. | .jltI .. | .jleI .. | .jleuI .. => 0x00FF
  | .callR .. | .syscallR .. | .enterR .. | .callI .. | .syscallI .. | .enterI .. => 0x00F0
  | .ret | .sysret | .exit => 0x00F0

/-- The bits of the argument word that the hardware ignores (R62, R65). -/
def unusedArg : Instr → Word
  | .movRR .. | .andRR .. | .orRR .. | .xorRR .. | .addRR .. | .subRR .. | .addcRR .. | .subbRR .. => 0xFFF0
  | .movRN .. | .andRN .. | .orRN .. | .xorRN .. | .addRN .. | .subRN .. | .addcRN .. | .subbRN .. => 0xFFF0
  | .movMN .. | .andMN .. | .orMN .. | .xorMN .. | .addMN .. | .subMN .. | .addcMN .. | .subbMN .. => 0xFFF0
  | .movRI .. | .andRI .. | .orRI .. | .xorRI .. | .addRI .. | .subRI .. | .addcRI .. | .subbRI .. => 0x0000
  | .movRD .. | .andRD .. | .orRD .. | .xorRD .. | .addRD .. | .subRD .. | .addcRD .. | .subbRD .. => 0x0000
  | .movRX .. | .andRX .. | .orRX .. | .xorRX .. | .addRX .. | .subRX .. | .addcRX .. | .subbRX .. => 0x0000
  | .movMD .. | .andMD .. | .orMD .. | .xorMD .. | .addMD .. | .subMD .. | .addcMD .. | .subbMD .. => 0x0000
  | .movMX .. | .andMX .. | .orMX .. | .xorMX .. | .addMX .. | .subMX .. | .addcMX .. | .subbMX .. => 0x0000
  | .sll .. | .srl .. | .sra .. => 0xFFFF
  | .movb .. | .swap .. | .peek .. => 0x0000
  | .pushR .. => 0xFFF0
  | .pushI .. => 0x0000
  | .pushf | .pop .. | .popf => 0xFFFF
  | .jmpR .. | .jzR .. | .jnzR .. | .jcR .. | .jncR .. | .jltR .. | .jleR .. | .jleuR .. => 0xFFFF
  | .jmpI .. | .jzI .. | .jnzI .. | .jcI .. | .jncI .. | .jltI .. | .jleI .. | .jleuI .. => 0x0000
  | .callR .. | .syscallR .. | .enterR .. => 0xFFFF
  | .callI .. | .syscallI .. | .enterI .. => 0x0000
  | .ret | .sysret | .exit => 0xFFFF

end Sys2Proof
end

