-- ==== Sys2Proof/Machine/Fetch.lean ====
section
/-! DEFINITION. Fetching an instruction's two words (R45, R46), and placing them where the fetch finds them. -/

namespace Sys2Proof.Machine

/-- What a fetch answers: opcode word and argument word, or why there is none. -/
abbrev Fetched := Except Refusal (Word × Word)

/-- `MemRead(a, 16)` on behalf of a fetch: the same read as a data access (R46, R56). -/
def State.fetchRamWord (s : State) (a : Word) : Except Refusal Word :=
  match s.ramKind a with
  | .storage => .ok (s.ramWord a)
  | .device => .error (.ramDevice a)
  | .absent => .error (.ramAbsent a)

/-- Fetch when `ms = ROM`: the whole instruction is one program-memory word (R45). -/
def State.fetchFromRom (s : State) : Fetched :=
  match s.romWord s.pc with
  | some I => .ok (opWord I, argWord I)
  | none => .error (.romUnpopulated s.pc)

/-- Fetch when `ms = RAM`: opcode word at `pc`, argument word at `pc + 1` modulo 2^16; both are read for every
instruction (R46; log 17). -/
def State.fetchFromRam (s : State) : Fetched :=
  match s.fetchRamWord s.pc with
  | .error r => .error r
  | .ok op =>
    match s.fetchRamWord (s.pc + 1) with
    | .error r => .error r
    | .ok arg => .ok (op, arg)

/-- Instruction fetch (R45, R46). -/
def State.fetch (s : State) : Fetched :=
  match s.ms with
  | .rom => s.fetchFromRom
  | .ram => s.fetchFromRam

/-- The state with a 32-bit instruction stored where the next fetch finds it: in ROM one word at `pc`, in RAM the opcode
word at `pc` and the argument word at `pc + 1` (R45 to R47). -/
def State.placeAtPc (s : State) (I : RomWord) : State :=
  match s.ms with
  | .rom => { s with rom := s.rom.write s.pc.toNat I }
  | .ram => (s.setRam s.pc (opWord I)).setRam (s.pc + 1) (argWord I)

end Sys2Proof.Machine
end

