-- ==== Sys2Proof/Machine/Step.lean ====
section
/-! DEFINITION. One step of the machine: fetch, decode, execute (R45, R46, R74, R350). `exec` itself moves `pc` past the
instruction (R25), so a step adds nothing around it. -/

namespace Sys2Proof.Machine

/-- One step under an assignment of the numbers the source lost (R69). -/
def stepWith (m : OpcodeAssignment) (s : State) : Outcome :=
  match s.fetch with
  | .error r => .refused r
  | .ok (op, arg) =>
    match decodeWith m op arg with
    | .error why => .refused (.reservedEncoding why)
    | .ok i => exec i s

/-- One step at the spec's default numbers (R67, R68, R71; log 8). -/
def step (s : State) : Host.Outcome State Fault Refusal := stepWith defaultOpcodes s

/-- `s` with the instruction whose bits are `w` stored where `step` fetches its next instruction (log 6, 29). -/
def State.withFetchWord (s : State) (nbits w : Nat) : State := s.placeAtPc (tableWord nbits w)

end Sys2Proof.Machine
end

