-- ==== Sys2Proof/Machine/Macros.lean ====
section
/-! DEFINITION. The assembler's macros (R1, R88): each is the list of instructions on the right of its arrow (R160 to R169,
R222 to R229, R231, R233, R280 to R286). The machine sees only those instructions (R169). -/

namespace Sys2Proof.Machine

/-- `OPERAND` (R11): a register, an immediate, or a memory operand in one of the three modes. -/
inductive Operand where
  | reg (rB : Reg)
  | imm (imm : Word)
  | direct (addr : Word)
  | indirect (rB : Reg)
  | indexed (rA : Reg) (imm : Word)
  deriving DecidableEq, Repr

/-- `[mode]` (R11): the address of a memory destination. -/
inductive Mode where
  | direct (addr : Word)
  | indirect (rA : Reg)
  | indexed (rA : Reg) (imm : Word)
  deriving DecidableEq, Repr

/-- The target of a jump macro: both forms exist (R280). -/
inductive Target where
  | reg (rA : Reg)
  | addr (addr : Word)
  deriving DecidableEq, Repr

/-- The macros of R88. -/
inductive Macro where
  /-- `not rD, rA` (R160). -/
  | not (rD rA : Reg)
  /-- `nand rD, rA, OPERAND` (R161). -/
  | nand (rD rA : Reg) (b : Operand)
  /-- `nor rD, rA, OPERAND` (R161). -/
  | nor (rD rA : Reg) (b : Operand)
  /-- `xnor rD, rA, OPERAND` (R161). -/
  | xnor (rD rA : Reg) (b : Operand)
  /-- `sllc rD, rA` (R162). -/
  | sllc (rD rA : Reg)
  /-- `movf rD, OPERAND` (R163). -/
  | movf (rD : Reg) (b : Operand)
  /-- `cmp rA, OPERAND` (R164). -/
  | cmp (rA : Reg) (b : Operand)
  /-- `mask rA, OPERAND` (R165). -/
  | mask (rA : Reg) (b : Operand)
  /-- `test OPERAND` (R166). -/
  | test (b : Operand)
  /-- "Clear flags", whose mnemonic the source lost (R167, N13; log 28). -/
  | clearFlags
  /-- `nop` (R168). -/
  | nop
  /-- `movb rD, [Addr16]` (R222). -/
  | movbDirect (rD : Reg) (addr : Word)
  /-- `movb rD, [rA]` (R223). -/
  | movbIndirect (rD rA : Reg)
  /-- `movb [mode], rB` (R224). -/
  | movbStore (m : Mode) (rB : Reg)
  /-- `lw rD, Imm16(rA)` (R225). -/
  | lw (rD : Reg) (imm : Word) (rA : Reg)
  /-- `sw rB, Imm16(rA)` (R226). -/
  | sw (rB : Reg) (imm : Word) (rA : Reg)
  /-- `lb rD, Imm16(rA)` (R227). -/
  | lb (rD : Reg) (imm : Word) (rA : Reg)
  /-- `sb rB, Imm16(rA)` (R228). -/
  | sb (rB : Reg) (imm : Word) (rA : Reg)
  /-- `lbu rD, Imm16(rA)` (R229). -/
  | lbu (rD : Reg) (imm : Word) (rA : Reg)
  /-- `swap rD, [Addr16]` (R231). -/
  | swapDirect (rD : Reg) (addr : Word)
  /-- `swap rD, [rA]` (R231). -/
  | swapIndirect (rD rA : Reg)
  /-- `peek rD, [rA+Imm16], Up` (R233). -/
  | peekUp (rD rA : Reg) (imm : Word)
  /-- `peek rD, [rA+Imm16], Low` (R233). -/
  | peekLow (rD rA : Reg) (imm : Word)
  /-- `peek rD, [rA+Imm16], Op` (R233). -/
  | peekOp (rD rA : Reg) (imm : Word)
  /-- `peek rD, [rA+Imm16], Arg` (R233). -/
  | peekArg (rD rA : Reg) (imm : Word)
  /-- `jb` (R280). -/
  | jb (t : Target)
  /-- `jnb` (R281). -/
  | jnb (t : Target)
  /-- `jeq` (R282). -/
  | jeq (t : Target)
  /-- `jne` (R283). -/
  | jne (t : Target)
  /-- `jltu` (R284). -/
  | jltu (t : Target)
  /-- `JMP skip(N)`, for any of the eight conditions (R285, R286). -/
  | skip (c : Cond) (n : Word)
  deriving DecidableEq, Repr

/-- `ALU rD, rA, OPERAND` in the format that fits the operand. The indexed format has no rA field of its own: its first
operand is rD (R105), so it fits only where rA is rD (R91; log 28). -/
def aluWith (f : AluOp) (rD rA : Reg) (b : Operand) : Option Instr :=
  match b with
  | .reg rB => some (.aluRR f rD rA rB)
  | .imm i => some (.aluRI f rD rA i)
  | .direct a => some (.aluRD f rD rA a)
  | .indirect rB => some (.aluRN f rD rA rB)
  | .indexed r i => if rA = rD then some (.aluRX f rD r i) else none

/-- The same where D1 says there is no indexed version: `movf`, `cmp`, `mask` (R163 to R165). -/
def aluWithoutIndexed (f : AluOp) (rD rA : Reg) (b : Operand) : Option Instr :=
  match b with
  | .indexed _ _ => none
  | .reg _ | .imm _ | .direct _ | .indirect _ => aluWith f rD rA b

/-- `not rD, rA` as one instruction (R160). -/
def notInstr (rD rA : Reg) : Instr := .xorRI rD rA 0xFFFF

/-- `mov [mode], rB` (R224). -/
def storeWith (m : Mode) (rB : Reg) : Instr :=
  match m with
  | .direct a => .movMD a rB
  | .indirect rA => .movMN rA rB
  | .indexed rA i => .movMX rA i rB

/-- A jump with either kind of target. -/
def jumpWith (c : Cond) (t : Target) : Instr :=
  match t with
  | .reg rA => .jumpR c rA
  | .addr a => .jumpI c a

/-- `skip(N)` for a jump at address `pc`: `pc + N + 1` for code in ROM (R285), `pc + 2*(N + 1)` for code in RAM (R286). -/
def skipTarget (space : MemSpace) (pc n : Word) : Word :=
  match space with
  | .rom => pc + n + 1
  | .ram => pc + 2 * (n + 1)

/-- The instructions a macro stands for, for code placed at address `pc` of memory `space`; `none` where no encoding
exists (R91). Only `skip` uses the placement. -/
def Macro.expand (space : MemSpace) (pc : Word) (m : Macro) : Option (List Instr) :=
  match m with
  | .not rD rA => some [notInstr rD rA]
  | .nand rD rA b => (aluWith .and rD rA b).map ([·, notInstr rD rD])
  | .nor rD rA b => (aluWith .or rD rA b).map ([·, notInstr rD rD])
  | .xnor rD rA b => (aluWith .xor rD rA b).map ([·, notInstr rD rD])
  | .sllc rD rA => some [.addcRR rD rA rA]
  | .movf rD b => (aluWithoutIndexed .add rD zeroReg b).map ([·])
  | .cmp rA b => (aluWithoutIndexed .sub zeroReg rA b).map ([·])
  | .mask rA b => (aluWithoutIndexed .and zeroReg rA b).map ([·])
  | .test b => (aluWith .add zeroReg zeroReg b).map ([·])
  | .clearFlags => some [.addRI zeroReg zeroReg 0x0001]
  | .nop => some [.movRR zeroReg zeroReg]
  | .movbDirect rD a => some [.movb rD zeroReg a]
  | .movbIndirect rD rA => some [.movb rD rA 0]
  | .movbStore mode rB => some [storeWith mode rB]
  | .lw rD i rA => some [.movRX rD rA i]
  | .sw rB i rA => some [.movMX rA i rB]
  | .lb rD i rA => some [.movb rD rA i]
  | .sb rB i rA => some [storeWith (.indexed rA i) rB]
  | .lbu rD i rA => some [.movb rD rA i, .andRI rD rD 0x00FF]
  | .swapDirect rD a => some [.swap rD zeroReg a]
  | .swapIndirect rD rA => some [.swap rD rA 0]
  | .peekUp rD rA i => some [.peek rD rA i .upper]
  | .peekLow rD rA i => some [.peek rD rA i .lower]
  | .peekOp rD rA i => some [.peek rD rA i .upper]
  | .peekArg rD rA i => some [.peek rD rA i .lower]
  | .jb t => some [jumpWith .jnc t]
  | .jnb t => some [jumpWith .jc t]
  | .jeq t => some [jumpWith .jz t]
  | .jne t => some [jumpWith .jnz t]
  | .jltu t => some [jumpWith .jnc t]
  | .skip c n => some [.jumpI c (skipTarget space pc n)]

/-- Execute instructions one after another, as the machine does with a macro's expansion that control flow does not
leave (R169). -/
def execAll (is : List Instr) (s : State) : Outcome :=
  match is with
  | [] => .next s
  | i :: rest =>
    match exec i s with
    | .next t => execAll rest t
    | .fault f => .fault f
    | .refused r => .refused r

/-- The `peek` that reads constant `k` of a table of 16-bit constants at ROM address `t` (R234). -/
def peekConstant (rD : Reg) (t : Word) (k : Nat) : Instr :=
  .peek rD zeroReg (t + BitVec.ofNat 16 (k / 2)) (if k % 2 = 0 then .upper else .lower)

end Sys2Proof.Machine
end

