-- ==== Sys2Proof/Machine/Timing.lean ====
section
/-! DEFINITION. Clock cycles per instruction (R355, R215), as a cost function. No meaning depends on it (R355, R357;
log 26, 32). -/

namespace Sys2Proof.Machine

/-- The clock cycles of an instruction, as the table of R355 gives them. MODEL'S CHOICE (log 32): the table speaks of no
memory space and the spec leaves open whether an instruction that runs from RAM takes more (the last sentence of R355,
N20), so this function takes no memory space and gives the table's count in both. DESIGN CHOICE, unsafe for a claim about
the duration of code in RAM; no meaning depends on it. -/
def cycles : Instr → Nat
  | .movRR .. | .movRI .. => 2
  | .movRD .. | .movRN .. | .movRX .. => 3
  | .movMD .. | .movMN .. => 3
  | .movMX .. => 4
  | .andRR .. | .orRR .. | .xorRR .. | .addRR .. | .subRR .. | .addcRR .. | .subbRR .. => 3
  | .andRI .. | .orRI .. | .xorRI .. | .addRI .. | .subRI .. | .addcRI .. | .subbRI .. => 3
  | .andRD .. | .orRD .. | .xorRD .. | .addRD .. | .subRD .. | .addcRD .. | .subbRD .. => 4
  | .andRN .. | .orRN .. | .xorRN .. | .addRN .. | .subRN .. | .addcRN .. | .subbRN .. => 4
  | .andRX .. | .orRX .. | .xorRX .. | .addRX .. | .subRX .. | .addcRX .. | .subbRX .. => 5
  | .andMD .. | .orMD .. | .xorMD .. | .addMD .. | .subMD .. | .addcMD .. | .subbMD .. => 4
  | .andMN .. | .orMN .. | .xorMN .. | .addMN .. | .subMN .. | .addcMN .. | .subbMN .. => 4
  | .andMX .. | .orMX .. | .xorMX .. | .addMX .. | .subMX .. | .addcMX .. | .subbMX .. => 5
  | .sll _ _ n | .srl _ _ n | .sra _ _ n => n.toNat + 1
  | .movb .. => 3
  | .swap .. => 5
  | .peek .. => 3
  | .pushR .. | .pushI .. | .pushf | .pop .. | .popf => 3
  | .jmpR .. | .jzR .. | .jnzR .. | .jcR .. | .jncR .. | .jltR .. | .jleR .. | .jleuR .. => 2
  | .jmpI .. | .jzI .. | .jnzI .. | .jcI .. | .jncI .. | .jltI .. | .jleI .. | .jleuI .. => 2
  | .callR .. | .callI .. | .syscallR .. | .syscallI .. | .enterR .. | .enterI .. => 4
  | .ret | .sysret | .exit => 3

end Sys2Proof.Machine
end

