-- ==== Sys2Proof/Safety.lean ====
section
/-! DEFINITION. The terms in which claims are made: the invariant of the state, what an instruction accesses and writes (the
tables of R28, R49, R310), when it completes, and what it leaves unchanged. -/

namespace Sys2Proof.Machine

/-! ## The invariant -/

/-- What every reachable state satisfies: both memories in canonical form, and the unused cell of register 0 at 0 (R21,
R34, R35). -/
abbrev State.Inv (s : State) : Prop :=
  s.ram.wf = true ∧ s.rom.wf = true ∧ s.regs.get zeroReg = 0

/-! ## What an instruction accesses (R49) -/

/-- The RAM address an instruction accesses as data, by reading or writing or both (R49); none for the others. -/
def ramAddress (i : Instr) (s : State) : Option Word :=
  match i with
  | .movRR .. | .andRR .. | .orRR .. | .xorRR .. | .addRR .. | .subRR .. | .addcRR .. | .subbRR .. => none
  | .movRI .. | .andRI .. | .orRI .. | .xorRI .. | .addRI .. | .subRI .. | .addcRI .. | .subbRI .. => none
  | .movRD _ addr => some addr
  | .andRD _ _ addr | .orRD _ _ addr | .xorRD _ _ addr | .addRD _ _ addr | .subRD _ _ addr | .addcRD _ _ addr
    | .subbRD _ _ addr => some addr
  | .movRN _ rB => some (s.reg rB)
  | .andRN _ _ rB | .orRN _ _ rB | .xorRN _ _ rB | .addRN _ _ rB | .subRN _ _ rB | .addcRN _ _ rB
    | .subbRN _ _ rB => some (s.reg rB)
  | .movRX _ rA imm | .andRX _ rA imm | .orRX _ rA imm | .xorRX _ rA imm | .addRX _ rA imm | .subRX _ rA imm
    | .addcRX _ rA imm | .subbRX _ rA imm => some (s.indexed rA imm)
  | .movMD addr _ | .andMD addr _ | .orMD addr _ | .xorMD addr _ | .addMD addr _ | .subMD addr _ | .addcMD addr _
    | .subbMD addr _ => some addr
  | .movMN rA _ | .andMN rA _ | .orMN rA _ | .xorMN rA _ | .addMN rA _ | .subMN rA _ | .addcMN rA _
    | .subbMN rA _ => some (s.reg rA)
  | .movMX rA imm _ | .andMX rA imm _ | .orMX rA imm _ | .xorMX rA imm _ | .addMX rA imm _ | .subMX rA imm _
    | .addcMX rA imm _ | .subbMX rA imm _ => some (s.indexed rA imm)
  | .sll .. | .srl .. | .sra .. => none
  | .movb _ rA imm | .swap _ rA imm => some (s.indexed rA imm)
  | .peek .. => none
  | .pushR _ | .pushI _ | .pushf => some s.pushAddress
  | .pop _ | .popf => some s.popAddress
  | .jmpR .. | .jzR .. | .jnzR .. | .jcR .. | .jncR .. | .jltR .. | .jleR .. | .jleuR .. => none
  | .jmpI .. | .jzI .. | .jnzI .. | .jcI .. | .jncI .. | .jltI .. | .jleI .. | .jleuI .. => none
  | .callR _ | .callI _ | .syscallR _ | .syscallI _ | .enterR _ | .enterI _ => some s.pushAddress
  | .ret | .sysret | .exit => some s.popAddress

/-- Does an instruction store to the RAM address it accesses (`w` in R49)? -/
def storesToRam (i : Instr) : Bool :=
  match i with
  | .movRR .. | .andRR .. | .orRR .. | .xorRR .. | .addRR .. | .subRR .. | .addcRR .. | .subbRR .. => false
  | .movRI .. | .andRI .. | .orRI .. | .xorRI .. | .addRI .. | .subRI .. | .addcRI .. | .subbRI .. => false
  | .movRD .. | .andRD .. | .orRD .. | .xorRD .. | .addRD .. | .subRD .. | .addcRD .. | .subbRD .. => false
  | .movRN .. | .andRN .. | .orRN .. | .xorRN .. | .addRN .. | .subRN .. | .addcRN .. | .subbRN .. => false
  | .movRX .. | .andRX .. | .orRX .. | .xorRX .. | .addRX .. | .subRX .. | .addcRX .. | .subbRX .. => false
  | .movMD .. | .andMD .. | .orMD .. | .xorMD .. | .addMD .. | .subMD .. | .addcMD .. | .subbMD .. => true
  | .movMN .. | .andMN .. | .orMN .. | .xorMN .. | .addMN .. | .subMN .. | .addcMN .. | .subbMN .. => true
  | .movMX .. | .andMX .. | .orMX .. | .xorMX .. | .addMX .. | .subMX .. | .addcMX .. | .subbMX .. => true
  | .sll .. | .srl .. | .sra .. | .movb .. | .peek .. => false
  | .swap .. => true
  | .pushR .. | .pushI .. | .pushf => true
  | .pop .. | .popf => false
  | .jmpR .. | .jzR .. | .jnzR .. | .jcR .. | .jncR .. | .jltR .. | .jleR .. | .jleuR .. => false
  | .jmpI .. | .jzI .. | .jnzI .. | .jcI .. | .jncI .. | .jltI .. | .jleI .. | .jleuI .. => false
  | .callR _ | .callI _ | .syscallR _ | .syscallI _ | .enterR _ | .enterI _ => true
  | .ret | .sysret | .exit => false

/-- The RAM address an instruction stores to, if it stores (R49). -/
def storeAddress (i : Instr) (s : State) : Option Word := if storesToRam i then ramAddress i s else none

/-- What an ALU operation with second operand `b` leaves in the RAM word at `ea` (R174). -/
def aluStored (f : AluOp) (ea b : Word) (s : State) : Word := aluResult f (s.ramWord ea) b s.flags.c

/-- The word an instruction stores at `storeAddress`, if it stores: the result of a memory-destination ALU operation (R174),
the old destination register of `swap` (R230), the pushed word (R242 to R244), the return address of a call (R290). -/
def storedWord (i : Instr) (s : State) : Option Word :=
  match i with
  | .movRR .. | .andRR .. | .orRR .. | .xorRR .. | .addRR .. | .subRR .. | .addcRR .. | .subbRR .. => none
  | .movRI .. | .andRI .. | .orRI .. | .xorRI .. | .addRI .. | .subRI .. | .addcRI .. | .subbRI .. => none
  | .movRD .. | .andRD .. | .orRD .. | .xorRD .. | .addRD .. | .subRD .. | .addcRD .. | .subbRD .. => none
  | .movRN .. | .andRN .. | .orRN .. | .xorRN .. | .addRN .. | .subRN .. | .addcRN .. | .subbRN .. => none
  | .movRX .. | .andRX .. | .orRX .. | .xorRX .. | .addRX .. | .subRX .. | .addcRX .. | .subbRX .. => none
  | .movMD addr rA => some (aluStored .mov addr (s.reg rA) s)
  | .andMD addr rA => some (aluStored .and addr (s.reg rA) s)
  | .orMD addr rA => some (aluStored .or addr (s.reg rA) s)
  | .xorMD addr rA => some (aluStored .xor addr (s.reg rA) s)
  | .addMD addr rA => some (aluStored .add addr (s.reg rA) s)
  | .subMD addr rA => some (aluStored .sub addr (s.reg rA) s)
  | .addcMD addr rA => some (aluStored .addc addr (s.reg rA) s)
  | .subbMD addr rA => some (aluStored .subb addr (s.reg rA) s)
  | .movMN rA rB => some (aluStored .mov (s.reg rA) (s.reg rB) s)
  | .andMN rA rB => some (aluStored .and (s.reg rA) (s.reg rB) s)
  | .orMN rA rB => some (aluStored .or (s.reg rA) (s.reg rB) s)
  | .xorMN rA rB => some (aluStored .xor (s.reg rA) (s.reg rB) s)
  | .addMN rA rB => some (aluStored .add (s.reg rA) (s.reg rB) s)
  | .subMN rA rB => some (aluStored .sub (s.reg rA) (s.reg rB) s)
  | .addcMN rA rB => some (aluStored .addc (s.reg rA) (s.reg rB) s)
  | .subbMN rA rB => some (aluStored .subb (s.reg rA) (s.reg rB) s)
  | .movMX rA imm rB => some (aluStored .mov (s.indexed rA imm) (s.reg rB) s)
  | .andMX rA imm rB => some (aluStored .and (s.indexed rA imm) (s.reg rB) s)
  | .orMX rA imm rB => some (aluStored .or (s.indexed rA imm) (s.reg rB) s)
  | .xorMX rA imm rB => some (aluStored .xor (s.indexed rA imm) (s.reg rB) s)
  | .addMX rA imm rB => some (aluStored .add (s.indexed rA imm) (s.reg rB) s)
  | .subMX rA imm rB => some (aluStored .sub (s.indexed rA imm) (s.reg rB) s)
  | .addcMX rA imm rB => some (aluStored .addc (s.indexed rA imm) (s.reg rB) s)
  | .subbMX rA imm rB => some (aluStored .subb (s.indexed rA imm) (s.reg rB) s)
  | .sll .. | .srl .. | .sra .. | .movb .. | .peek .. => none
  | .swap rD _ _ => some (s.reg rD)
  | .pushR rB => some (s.reg rB)
  | .pushI imm => some imm
  | .pushf => some s.flagsWord
  | .pop .. | .popf => none
  | .jmpR .. | .jzR .. | .jnzR .. | .jcR .. | .jncR .. | .jltR .. | .jleR .. | .jleuR .. => none
  | .jmpI .. | .jzI .. | .jnzI .. | .jcI .. | .jncI .. | .jltI .. | .jleI .. | .jleuI .. => none
  | .callR _ | .callI _ | .syscallR _ | .syscallI _ | .enterR _ | .enterI _ => some s.nextPc
  | .ret | .sysret | .exit => none

/-- The ROM address an instruction reads as data: `peek` only (R49). -/
def romAddress (i : Instr) (s : State) : Option Word :=
  match i with
  | .peek _ rA imm _ => some (s.indexed rA imm)
  | _ => none

/-! ## What an instruction writes -/

/-- The general registers an instruction may write: its destination, and `sp` for the instructions that move it (R22,
R106, R170, R240, R241). -/
def writtenRegs (i : Instr) : List Reg :=
  match i with
  | .movRR rD _ | .movRI rD _ | .movRD rD _ | .movRN rD _ => [rD]
  | .andRR rD _ _ | .orRR rD _ _ | .xorRR rD _ _ | .addRR rD _ _ | .subRR rD _ _ | .addcRR rD _ _
    | .subbRR rD _ _ => [rD]
  | .andRI rD _ _ | .orRI rD _ _ | .xorRI rD _ _ | .addRI rD _ _ | .subRI rD _ _ | .addcRI rD _ _
    | .subbRI rD _ _ => [rD]
  | .andRD rD _ _ | .orRD rD _ _ | .xorRD rD _ _ | .addRD rD _ _ | .subRD rD _ _ | .addcRD rD _ _
    | .subbRD rD _ _ => [rD]
  | .andRN rD _ _ | .orRN rD _ _ | .xorRN rD _ _ | .addRN rD _ _ | .subRN rD _ _ | .addcRN rD _ _
    | .subbRN rD _ _ => [rD]
  | .movRX rD _ _ | .andRX rD _ _ | .orRX rD _ _ | .xorRX rD _ _ | .addRX rD _ _ | .subRX rD _ _ | .addcRX rD _ _
    | .subbRX rD _ _ => [rD]
  | .movMD .. | .andMD .. | .orMD .. | .xorMD .. | .addMD .. | .subMD .. | .addcMD .. | .subbMD .. => []
  | .movMN .. | .andMN .. | .orMN .. | .xorMN .. | .addMN .. | .subMN .. | .addcMN .. | .subbMN .. => []
  | .movMX .. | .andMX .. | .orMX .. | .xorMX .. | .addMX .. | .subMX .. | .addcMX .. | .subbMX .. => []
  | .sll rD _ _ | .srl rD _ _ | .sra rD _ _ => [rD]
  | .movb rD _ _ | .swap rD _ _ | .peek rD _ _ _ => [rD]
  | .pushR _ | .pushI _ | .pushf | .popf => [spReg]
  | .pop rD => [spReg, rD]
  | .jmpR .. | .jzR .. | .jnzR .. | .jcR .. | .jncR .. | .jltR .. | .jleR .. | .jleuR .. => []
  | .jmpI .. | .jzI .. | .jnzI .. | .jcI .. | .jncI .. | .jltI .. | .jleI .. | .jleuI .. => []
  | .callR _ | .callI _ | .syscallR _ | .syscallI _ | .enterR _ | .enterI _ => [spReg]
  | .ret | .sysret | .exit => [spReg]

/-- How an instruction writes the flags (the rows of R28). -/
inductive FlagEffect where
  /-- All four from a sum: `add sub addc subb`. -/
  | sum
  /-- `Z` and `S` from the result, `C` and `V` drawn: `and or xor`, and shifts by 1 to 15. -/
  | logic
  /-- All four from the popped word: `popf`. -/
  | popped
  /-- None. -/
  | unchanged
  deriving DecidableEq, Repr

/-- The flag effect of a shift by a constant (R28). -/
def shiftFlagEffect (n : BitVec 4) : FlagEffect := if n = 0 then .unchanged else .logic

/-- R28, row by row. -/
def flagEffect (i : Instr) : FlagEffect :=
  match i with
  | .movRR .. => .unchanged
  | .andRR .. | .orRR .. | .xorRR .. => .logic
  | .addRR .. | .subRR .. | .addcRR .. | .subbRR .. => .sum
  | .movRI .. => .unchanged
  | .andRI .. | .orRI .. | .xorRI .. => .logic
  | .addRI .. | .subRI .. | .addcRI .. | .subbRI .. => .sum
  | .movRD .. => .unchanged
  | .andRD .. | .orRD .. | .xorRD .. => .logic
  | .addRD .. | .subRD .. | .addcRD .. | .subbRD .. => .sum
  | .movRN .. => .unchanged
  | .andRN .. | .orRN .. | .xorRN .. => .logic
  | .addRN .. | .subRN .. | .addcRN .. | .subbRN .. => .sum
  | .movRX .. => .unchanged
  | .andRX .. | .orRX .. | .xorRX .. => .logic
  | .addRX .. | .subRX .. | .addcRX .. | .subbRX .. => .sum
  | .movMD .. => .unchanged
  | .andMD .. | .orMD .. | .xorMD .. => .logic
  | .addMD .. | .subMD .. | .addcMD .. | .subbMD .. => .sum
  | .movMN .. => .unchanged
  | .andMN .. | .orMN .. | .xorMN .. => .logic
  | .addMN .. | .subMN .. | .addcMN .. | .subbMN .. => .sum
  | .movMX .. => .unchanged
  | .andMX .. | .orMX .. | .xorMX .. => .logic
  | .addMX .. | .subMX .. | .addcMX .. | .subbMX .. => .sum
  | .sll _ _ n | .srl _ _ n | .sra _ _ n => shiftFlagEffect n
  | .movb .. | .swap .. | .peek .. => .unchanged
  | .pushR .. | .pushI .. | .pushf | .pop .. => .unchanged
  | .popf => .popped
  | .jmpR .. | .jzR .. | .jnzR .. | .jcR .. | .jncR .. | .jltR .. | .jleR .. | .jleuR .. => .unchanged
  | .jmpI .. | .jzI .. | .jnzI .. | .jcI .. | .jncI .. | .jltI .. | .jleI .. | .jleuI .. => .unchanged
  | .callR _ | .callI _ | .syscallR _ | .syscallI _ | .enterR _ | .enterI _ => .unchanged
  | .ret | .sysret | .exit => .unchanged

/-- How many draws an instruction makes (R28, R30; log 10, 11). -/
def drawCount (i : Instr) : Nat :=
  match i, flagEffect i with
  | .pushf, _ => 1
  | _, .logic => 2
  | _, .sum => 0
  | _, .popped => 0
  | _, .unchanged => 0

/-- The memory space an instruction leaves (R31, R300, R301, R310). -/
def msAfter (i : Instr) (ms : MemSpace) : MemSpace :=
  match i with
  | .syscallR _ | .syscallI _ | .exit => .rom
  | .enterR _ | .enterI _ | .sysret => .ram
  | _ => ms

/-- The condition of a jump, none for the other instructions. -/
def jumpCond (i : Instr) : Option Cond :=
  match i with
  | .jmpR _ | .jmpI _ => some .jmp
  | .jzR _ | .jzI _ => some .jz
  | .jnzR _ | .jnzI _ => some .jnz
  | .jcR _ | .jcI _ => some .jc
  | .jncR _ | .jncI _ => some .jnc
  | .jltR _ | .jltI _ => some .jlt
  | .jleR _ | .jleI _ => some .jle
  | .jleuR _ | .jleuI _ => some .jleu
  | _ => none

/-- Is the instruction a call or a return (R290, R297)? -/
def isCallOrReturn (i : Instr) : Bool :=
  match i with
  | .callR _ | .callI _ | .syscallR _ | .syscallI _ | .enterR _ | .enterI _ | .ret | .sysret | .exit => true
  | _ => false

/-! ## When an instruction completes -/

/-- The conditions on state and operands under which an instruction has its effect: it is no reserved use of `sp` (R247,
R304), its RAM address is storage (R50), and the ROM word it reads is populated (R44). -/
def Completes (i : Instr) (s : State) : Prop :=
  i.wellFormed = true ∧ (∀ a, ramAddress i s = some a → s.ramKind a = .storage) ∧
    (∀ a, romAddress i s = some a → (s.romWord a).isSome = true)

/-! ## Frames -/

/-- The registers other than `rs`, the RAM words other than those at `as`, program memory and the platform's address map
are the same in `s` and `t`. -/
structure SameBut (rs : List Reg) (as : List Word) (s t : State) : Prop where
  regs : ∀ r, r ∉ rs → t.reg r = s.reg r
  cells : ∀ a, a ∉ as → t.ramCell a = s.ramCell a
  words : ∀ a, a ∉ as → t.ramWord a = s.ramWord a
  rom : t.rom = s.rom
  ramMap : t.ramMap = s.ramMap

/-- `t` has the program counter, flags, memory space and count of draws given, and is `s` but for the registers `rs` and the
RAM words at `as`: every field of the state is spoken of. -/
structure Leaves (s t : State) (pc : Word) (flags : Flags) (ms : MemSpace) (draws : Nat) (rs : List Reg)
    (as : List Word) : Prop where
  pc : t.pc = pc
  flags : t.flags = flags
  ms : t.ms = ms
  draws : t.draws = draws
  frame : SameBut rs as s t

/-- `t` is `s` gone on to the next instruction (R25), flags and memory space as they were, but for the registers `rs` and
the RAM words at `as`. -/
abbrev GoesOn (s t : State) (rs : List Reg) (as : List Word) : Prop :=
  Leaves s t (s.pc + s.instrSize) s.flags s.ms s.draws rs as

/-- What an ALU operation with first operand `a`, second operand `b` and a register destination does (R106, R107). -/
structure AluToRegEffect (f : AluOp) (rD : Reg) (a b : Word) (s t : State) : Prop where
  result : t.reg rD = if rD = zeroReg then 0 else aluResult f a b s.flags.c
  others : Leaves s t (s.pc + s.instrSize) (aluFlags f a b s.flags s.draws) s.ms (s.draws + aluDraws f) [rD] []

/-- What an ALU operation with second operand `b` and the RAM word at `ea` as first operand and destination does (R174). -/
structure AluToRamEffect (f : AluOp) (ea b : Word) (s t : State) : Prop where
  result : t.ramWord ea = aluResult f (s.ramWord ea) b s.flags.c
  others : Leaves s t (s.pc + s.instrSize) (aluFlags f (s.ramWord ea) b s.flags s.draws) s.ms
    (s.draws + aluDraws f) [] [ea]

/-- What a shift by 1 to 15 with result `r` does (R210). -/
structure ShiftEffect (rD : Reg) (r : Word) (s t : State) : Prop where
  result : t.reg rD = if rD = zeroReg then 0 else r
  others : Leaves s t (s.pc + s.instrSize) (logicFlags r s.draws) s.ms (s.draws + 2) [rD] []

/-- What a push of `v` by an instruction that draws `n` times does (R240, R242 to R244). -/
structure PushEffect (v : Word) (n : Nat) (s t : State) : Prop where
  sp : t.reg spReg = s.reg spReg - 1
  pushed : t.ramWord s.pushAddress = v
  others : Leaves s t (s.pc + s.instrSize) s.flags s.ms (s.draws + n) [spReg] [s.pushAddress]

/-- What a call to `target` that ends in the memory space `space` does (R290). -/
structure CallEffect (target : Word) (space : MemSpace) (s t : State) : Prop where
  sp : t.reg spReg = s.reg spReg - 1
  pushed : t.ramWord s.pushAddress = s.pc + s.instrSize
  others : Leaves s t target s.flags space s.draws [spReg] [s.pushAddress]

/-- What a return that ends in the memory space `space` does (R297 to R299). -/
structure ReturnEffect (space : MemSpace) (s t : State) : Prop where
  sp : t.reg spReg = s.reg spReg + 1
  others : Leaves s t (s.ramWord s.popAddress) s.flags space s.draws [spReg] []

/-! ## Flags -/

/-- The seven conditional jumps order `a` and `b` when they read the flags `F` (R261, last column). -/
structure ComparesAs (F : Flags) (a b : Word) : Prop where
  jz : condHolds .jz F = true ↔ a = b
  jnz : condHolds .jnz F = true ↔ a ≠ b
  jc : condHolds .jc F = true ↔ b.toNat ≤ a.toNat
  jnc : condHolds .jnc F = true ↔ a.toNat < b.toNat
  jlt : condHolds .jlt F = true ↔ a.toInt < b.toInt
  jle : condHolds .jle F = true ↔ a.toInt ≤ b.toInt
  jleu : condHolds .jleu F = true ↔ a.toNat ≤ b.toNat

/-- Does an instruction read the flags: the jumps, `addc`, `subb`, `pushf` (R29)? -/
def readsFlags (i : Instr) : Bool :=
  match i with
  | .addcRR .. | .addcRI .. | .addcRD .. | .addcRN .. | .addcRX .. | .addcMD .. | .addcMN .. | .addcMX .. => true
  | .subbRR .. | .subbRI .. | .subbRD .. | .subbRN .. | .subbRX .. | .subbMD .. | .subbMN .. | .subbMX .. => true
  | .pushf => true
  | .jmpR .. | .jzR .. | .jnzR .. | .jcR .. | .jncR .. | .jltR .. | .jleR .. | .jleuR .. => true
  | .jmpI .. | .jzI .. | .jnzI .. | .jcI .. | .jncI .. | .jltI .. | .jleI .. | .jleuI .. => true
  | _ => false

/-! ## Fetching and running -/

/-- The two words of the instruction at `pc`, in the memory that instructions are fetched from (R45, R46). -/
def Holds (s : State) (op arg : Word) : Prop :=
  (s.ms = .rom ∧ s.romWord s.pc = some (joinWords op arg)) ∨
    (s.ms = .ram ∧ s.ramKind s.pc = .storage ∧ s.ramKind (s.pc + 1) = .storage ∧ s.ramWord s.pc = op ∧
      s.ramWord (s.pc + 1) = arg)

/-- A run of `n` steps that ends in no refusal. -/
def SafeRun (n : Nat) (s : State) : Prop := ∃ t, Host.Core.run Sys2Proof.core n s = .next t

/-! ## Operands of macros -/

/-- The value of a macro's `OPERAND` (R11). -/
def Operand.value (b : Operand) (s : State) : Word :=
  match b with
  | .reg rB => s.reg rB
  | .imm i => i
  | .direct a => s.ramWord a
  | .indirect rB => s.ramWord (s.reg rB)
  | .indexed rA i => s.ramWord (s.indexed rA i)

/-- The RAM address a macro's `OPERAND` reads, if it is a memory operand (R11). -/
def Operand.address (b : Operand) (s : State) : Option Word :=
  match b with
  | .reg _ | .imm _ => none
  | .direct a => some a
  | .indirect rB => some (s.reg rB)
  | .indexed rA i => some (s.indexed rA i)

/-- A memory operand lies in storage (R50). -/
def Operand.Readable (b : Operand) (s : State) : Prop := ∀ a, b.address s = some a → s.ramKind a = .storage

end Sys2Proof.Machine
end

