-- ==== Sys2Proof/Certificates/Slice0/Obligations.lean ====
section
/-! DEFINITION. The statements for the provers, one `def Obligations.<Name> : Prop` each, in the order of OBLIGATIONS.json.
Nothing here is proved. "Log <n>" is `notes/assumptions/<n>.md`, "decision D<n>" a row of `92_eei_decisions.md`. A statement
whose docstring names a decision or a log entry rests on a choice of the spec's or of the model's. -/

section Statements

open Sys2Proof Sys2Proof.Machine

/-! ## Decoding and encoding -/

/-- Decoding the encoding of any instruction gives it back, with every operand at every value, under EVERY legal assignment
of the numbers the source lost (R60 to R74; R69; log 8). -/
def Obligations.DecodeOfEncode : Prop :=
  ∀ m : OpcodeAssignment, m.Legal → ∀ i : Instr, decodeWith m (encodeOp m i) (encodeArg i) = .ok i

/-- Two words decode to an instruction exactly when they are its encoding in every bit the hardware uses; the bits of
`unusedOp` and `unusedArg` may hold anything (R62, R65; decision D9, log 12). No two instructions share a word, and no word
outside the encodings is accepted. -/
def Obligations.DecodeExactly : Prop :=
  ∀ m : OpcodeAssignment, m.Legal → ∀ (op arg : Word) (i : Instr),
    decodeWith m op arg = .ok i ↔
      (op &&& ~~~unusedOp i = encodeOp m i ∧ arg &&& ~~~unusedArg i = encodeArg i)

/-- The opcode bytes that are rejected as unassigned are exactly those the opcode map leaves free (R70, R72; decision D11,
log 13). -/
def Obligations.UnassignedBytes : Prop :=
  ∀ m : OpcodeAssignment, m.Legal → ∀ op arg : Word,
    decodeWith m op arg = .error .unassignedOpcode ↔
      (byteAssigned (op.extractLsb' 8 8) = false ∧ op.extractLsb' 8 8 ∉ m.callretBytes)

/-- The words that are rejected for the constant field are exactly those of the eleven formats that carry the constant
0001 and hold another value there (R66; decision D10, log 13). -/
def Obligations.ConstantField : Prop :=
  ∀ m : OpcodeAssignment, m.Legal → ∀ op arg : Word,
    decodeWith m op arg = .error .constantFieldNot0001 ↔
      (op.extractLsb' 0 4 ≠ 0b0001#4 ∧
        op.extractLsb' 8 8 ∈ [0x84#8, 0x85#8, 0x86#8, 0x87#8, 0x88#8, 0xD1#8, m.syscallI, m.enterI, 0xD6#8, m.sysret,
          m.exit])

/-- The spec's default numbers are a legal assignment: two bijections with `mov` at 000, and six distinct bytes that no
other instruction has (R67, R68, R71; decisions D1 to D3, log 8). -/
def Obligations.DefaultNumbersLegal : Prop := defaultOpcodes.Legal

/-- Words written out from the encodings decode to the instructions they stand for (R62, R70, R74; the numbers are the
spec's defaults, log 8). -/
def Obligations.SampleWords : Prop :=
  decode 0x0000 0xFFF0 = .ok (.movRR 0 0) ∧ decode 0x07FF 0x000F = .ok (.subbRR 15 15 15) ∧
  decode 0x0F45 0x8000 = .ok (.subbRI 4 5 0x8000) ∧ decode 0x3F45 0x0000 = .ok (.sra 4 5 15) ∧
  decode 0x4745 0x2000 = .ok (.subbRD 4 5 0x2000) ∧ decode 0x4F45 0x0006 = .ok (.subbRN 4 5 6) ∧
  decode 0x5F45 0x0002 = .ok (.subbRX 4 5 2) ∧ decode 0x6705 0x2000 = .ok (.subbMD 0x2000 5) ∧
  decode 0x6F05 0x0006 = .ok (.subbMN 5 6) ∧ decode 0x7F65 0x0002 = .ok (.subbMX 5 2 6) ∧
  decode 0x8045 0x0003 = .ok (.movb 4 5 3) ∧ decode 0x8145 0x0003 = .ok (.swap 4 5 3) ∧
  decode 0x8345 0x0003 = .ok (.peek 4 5 3 .upper) ∧ decode 0x8401 0x0005 = .ok (.pushR 5) ∧
  decode 0x8741 0x0000 = .ok (.pop 4) ∧ decode 0xC70A 0x0000 = .ok (.jleuR 10) ∧
  decode 0xCF00 0x0200 = .ok (.jleuI 0x0200) ∧ decode 0xD101 0x0300 = .ok (.callI 0x0300) ∧
  decode 0xD601 0x0000 = .ok .ret ∧ decode 0xD8F1 0x0000 = .ok .exit ∧
  decode 0x8900 0x0000 = .error .unassignedOpcode ∧ decode 0xD802 0x0000 = .error .constantFieldNot0001

/-! ## Fetch and step -/

/-- A step runs the decoded instruction: where the two words at `pc` decode to `i`, a step is `exec i` and nothing more,
from ROM and from RAM, under every assignment (R45, R46, R74, R350). -/
def Obligations.StepRunsDecoded : Prop :=
  (∀ (m : OpcodeAssignment) (s : State) (op arg : Word) (i : Instr),
    Holds s op arg → decodeWith m op arg = .ok i → stepWith m s = exec i s) ∧
  (∀ (s : State) (op arg : Word) (i : Instr), Holds s op arg → decode op arg = .ok i → step s = exec i s)

/-- A step on words that decode to nothing is refused under the decoder's name for the reason, and so nothing follows
(R66, R72, R321; decisions D10 and D11, log 13). -/
def Obligations.StepRefusesReserved : Prop :=
  ∀ (m : OpcodeAssignment) (s : State) (op arg : Word) (why : DecodeReject),
    Holds s op arg → decodeWith m op arg = .error why → stepWith m s = .refused (.reservedEncoding why)

/-- Fetch when `ms = ROM`: one program-memory word is the whole instruction, its upper half the opcode word, its lower half
the argument word, and `N` is 1 (R45); an address the image does not populate is refused (R44; decision D17, the model's
stop of log 15). -/
def Obligations.FetchFromRom : Prop :=
  ∀ s : State, s.ms = .rom →
    s.instrSize = 1 ∧
    (∀ I : RomWord, s.romWord s.pc = some I → s.fetch = .ok (I.extractLsb' 16 16, I.extractLsb' 0 16)) ∧
    (s.romWord s.pc = none → s.fetch = .error (.romUnpopulated s.pc))

/-- Fetch when `ms = RAM`: the opcode word at `pc`, the argument word at `(pc + 1) mod 2^16`, both always read, and `N` is 2
(R46; decision D13, log 17). A word that is no storage refuses (log 15). -/
def Obligations.FetchFromRam : Prop :=
  ∀ s : State, s.ms = .ram →
    s.instrSize = 2 ∧
    (s.ramKind s.pc = .storage → s.ramKind (s.pc + 1) = .storage →
      s.fetch = .ok (s.ramWord s.pc, s.ramWord (s.pc + 1))) ∧
    (s.ramKind s.pc = .device → s.fetch = .error (.ramDevice s.pc)) ∧
    (s.ramKind s.pc = .absent → s.fetch = .error (.ramAbsent s.pc)) ∧
    (s.ramKind s.pc = .storage → s.ramKind (s.pc + 1) = .device → s.fetch = .error (.ramDevice (s.pc + 1))) ∧
    (s.ramKind s.pc = .storage → s.ramKind (s.pc + 1) = .absent → s.fetch = .error (.ramAbsent (s.pc + 1)))

/-- A store to RAM, by ANY instruction that stores (memory-destination ALU, `swap`, push, call), is seen by the very next
fetch when `ms = RAM`, in either of its two words; and no instruction changes what a fetch from ROM finds (R56, R42, R49;
decision D22, log 17). The word `pushf` stores is partly free (log 9, 11). -/
def Obligations.StoreSeenByNextFetch : Prop :=
  (∀ (i : Instr) (s t : State) (a : Word), exec i s = .next t → storeAddress i s = some a →
    ∃ v, storedWord i s = some v ∧ t.ramWord a = v ∧
      (t.ms = .ram → t.ramKind t.pc = .storage → t.ramKind (t.pc + 1) = .storage →
        t.fetch = .ok (if t.pc = a then v else s.ramWord t.pc, if t.pc + 1 = a then v else s.ramWord (t.pc + 1)))) ∧
  (∀ (i : Instr) (s t : State), exec i s = .next t → ∀ a, t.romWord a = s.romWord a)

/-- `withFetchWord` places an instruction where the next step finds it: in ROM always, in RAM where both words are storage
(R45, R46; log 6, 29). -/
def Obligations.PlacedInstructionRuns : Prop :=
  ∀ (s : State) (w : Nat) (i : Instr), decodeTableWord 32 w = some i →
    (s.ms = .ram → s.ramKind s.pc = .storage ∧ s.ramKind (s.pc + 1) = .storage) →
    step (s.withFetchWord 32 w) = exec i (s.withFetchWord 32 w)

/-! ## Memories and register 0 -/

/-- `MemWrite(a, 16, v)`: at a storage address the word at `a` becomes `v`, all 16 bits, and no other word changes; at a
device or absent address it is refused (R42). -/
def Obligations.RamWriteRule : Prop :=
  ∀ (s : State) (a v : Word),
    (s.ramKind a = .storage →
      ∃ t, s.onStorage a (.next (s.setRam a v)) = .next t ∧ t.ramWord a = v ∧
        Leaves s t s.pc s.flags s.ms s.draws [] [a]) ∧
    (s.ramKind a = .device → s.onStorage a (.next (s.setRam a v)) = .refused (.ramDevice a)) ∧
    (s.ramKind a = .absent → s.onStorage a (.next (s.setRam a v)) = .refused (.ramAbsent a))

/-- `RomRead(a, w)` through `peek`: `w = 1` gives bits 31:16, `w = 0` bits 15:0, nothing else changes (the destination
`zero` discards the value), an unpopulated address is refused; and program memory is the same after every instruction
(R44, R232). That the flags stay is R235 (decision D23, log 22); the stop is decision D17 (log 15). -/
def Obligations.RomReadRule : Prop :=
  (∀ (s : State) (rD rA : Reg) (imm : Word) (half : RomHalf) (I : RomWord),
    s.romWord (s.reg rA + imm) = some I →
    ∃ t, exec (.peek rD rA imm half) s = .next t ∧
      t.reg rD = (if rD = zeroReg then 0
        else match half with
          | .upper => I.extractLsb' 16 16
          | .lower => I.extractLsb' 0 16) ∧
      GoesOn s t [rD] []) ∧
  (∀ (s : State) (rD rA : Reg) (imm : Word) (half : RomHalf), s.romWord (s.reg rA + imm) = none →
    exec (.peek rD rA imm half) s = .refused (.romUnpopulated (s.reg rA + imm))) ∧
  (∀ (i : Instr) (s t : State), exec i s = .next t → t.rom = s.rom)

/-- Register 0 reads as 0 in every state, and an instruction whose only destination register is 0 leaves the whole
register file as it was (R21; decision D27, log 19). -/
def Obligations.RegisterZero : Prop :=
  (∀ s : State, s.reg zeroReg = 0) ∧
  (∀ (i : Instr) (s t : State), exec i s = .next t → writtenRegs i = [zeroReg] → t.regs = s.regs)

/-! ## ALU -/

/-- The five register-destination forms of all eight operations complete, with the result in `rD`, the flags of the
operation, and nothing else changed (R106). `zero` as destination discards the result and keeps the flag update. `C` and
`V` of `and`, `or`, `xor` are free values, drawn by the model's counter (log 10); what `ALU_f` computes rests on log 20. -/
def Obligations.AluRegisterDestination : Prop :=
  ∀ (f : AluOp) (s : State) (rD rA rB : Reg) (imm addr : Word),
    (∃ t, exec (.aluRR f rD rA rB) s = .next t ∧ AluToRegEffect f rD (s.reg rA) (s.reg rB) s t) ∧
    (∃ t, exec (.aluRI f rD rA imm) s = .next t ∧ AluToRegEffect f rD (s.reg rA) imm s t) ∧
    (s.ramKind addr = .storage →
      ∃ t, exec (.aluRD f rD rA addr) s = .next t ∧ AluToRegEffect f rD (s.reg rA) (s.ramWord addr) s t) ∧
    (s.ramKind (s.reg rB) = .storage →
      ∃ t, exec (.aluRN f rD rA rB) s = .next t ∧ AluToRegEffect f rD (s.reg rA) (s.ramWord (s.reg rB)) s t) ∧
    (s.ramKind (s.reg rA + imm) = .storage →
      ∃ t, exec (.aluRX f rD rA imm) s = .next t ∧
        AluToRegEffect f rD (s.reg rD) (s.ramWord (s.reg rA + imm)) s t)

/-- The three memory-destination forms of all eight operations complete: the RAM word at the effective address is first
operand and destination, no register is written, and nothing else changes (R170, R174); `mov` leaves the flags (R175). The
one effective address is R43 (decision D26, log 23); `C` and `V` of `and`, `or`, `xor` are free values, drawn by the
model's counter (log 10); what `ALU_f` computes rests on log 20. -/
def Obligations.AluMemoryDestination : Prop :=
  ∀ (f : AluOp) (s : State) (rA rB : Reg) (imm addr : Word),
    (s.ramKind addr = .storage →
      ∃ t, exec (.aluMD f addr rA) s = .next t ∧ AluToRamEffect f addr (s.reg rA) s t) ∧
    (s.ramKind (s.reg rA) = .storage →
      ∃ t, exec (.aluMN f rA rB) s = .next t ∧ AluToRamEffect f (s.reg rA) (s.reg rB) s t) ∧
    (s.ramKind (s.reg rA + imm) = .storage →
      ∃ t, exec (.aluMX f rA imm rB) s = .next t ∧ AluToRamEffect f (s.reg rA + imm) (s.reg rB) s t)

/-- `add` and `addc` as arithmetic: the sum modulo 2^16, `C` the carry out, `V` exactly when the signed sum does not fit,
`Z` and `S` from the result (R114, R116; decisions D5 and D28, log 20). -/
def Obligations.AdditionIsArithmetic : Prop :=
  ∀ (a b : Word) (F : Flags) (d : Nat) (f : AluOp), f = .add ∨ f = .addc →
    let c : Nat := if f = .addc ∧ F.c = true then 1 else 0
    let r := aluResult f a b F.c
    r.toNat = (a.toNat + b.toNat + c) % 65536 ∧
    aluFlags f a b F d =
      { z := decide (r.toNat = 0)
        c := decide (65536 ≤ a.toNat + b.toNat + c)
        v := decide (a.toInt + b.toInt + c < -32768 ∨ 32767 < a.toInt + b.toInt + c)
        s := decide (r.toInt < 0) }

/-- `sub` and `subb` as arithmetic: the difference modulo 2^16, `C = 1` exactly when there is no borrow, `V` exactly when the
signed difference does not fit, `Z` and `S` from the result (R115, R117; decisions D5 and D28, log 20). -/
def Obligations.SubtractionIsArithmetic : Prop :=
  ∀ (a b : Word) (F : Flags) (d : Nat) (f : AluOp), f = .sub ∨ f = .subb →
    let borrow : Nat := if f = .subb ∧ F.c = false then 1 else 0
    let r := aluResult f a b F.c
    (r.toNat : Int) = ((a.toNat : Int) - b.toNat - borrow) % 65536 ∧
    aluFlags f a b F d =
      { z := decide (r.toNat = 0)
        c := decide (b.toNat + borrow ≤ a.toNat)
        v := decide (a.toInt - b.toInt - borrow < -32768 ∨ 32767 < a.toInt - b.toInt - borrow)
        s := decide (r.toInt < 0) }

/-- `and`, `or`, `xor` bit by bit, `mov` the second operand; `Z` and `S` from the result, `C` and `V` the next two draws, which
nothing constrains; `mov` writes no flag (R28, R110 to R113; the truth table of `or` is log 30, the draws log 10). -/
def Obligations.LogicAndMove : Prop :=
  ∀ (a b : Word) (F : Flags) (d : Nat),
    (∀ k, (aluResult .and a b F.c).getLsbD k = (a.getLsbD k && b.getLsbD k)) ∧
    (∀ k, (aluResult .or a b F.c).getLsbD k = (a.getLsbD k || b.getLsbD k)) ∧
    (∀ k, (aluResult .xor a b F.c).getLsbD k = (a.getLsbD k != b.getLsbD k)) ∧
    aluResult .mov a b F.c = b ∧ aluFlags .mov a b F d = F ∧ aluDraws .mov = 0 ∧
    (∀ f, f = .and ∨ f = .or ∨ f = .xor →
      aluFlags f a b F d =
        { z := decide ((aluResult f a b F.c).toNat = 0), c := Config.drawBit d, v := Config.drawBit (d + 1)
          s := (aluResult f a b F.c).getLsbD 15 } ∧
      aluDraws f = 2)

/-- A 32-bit addition is `add` of the low words then `addc` of the high words, with the carry out in `C` (R353; decision D5,
log 20). -/
def Obligations.ThirtyTwoBitAddition : Prop :=
  ∀ (s : State) (dLo aLo bLo dHi aHi bHi : Reg), dLo ≠ zeroReg → dHi ≠ zeroReg → dLo ≠ dHi → dLo ≠ aHi → dLo ≠ bHi →
    ∃ t, execAll [.addRR dLo aLo bLo, .addcRR dHi aHi bHi] s = .next t ∧
      t.reg dHi ++ t.reg dLo = (s.reg aHi ++ s.reg aLo) + (s.reg bHi ++ s.reg bLo) ∧
      t.flags.c = decide (4294967296 ≤ (s.reg aHi ++ s.reg aLo).toNat + (s.reg bHi ++ s.reg bLo).toNat)

/-- A 32-bit subtraction is `sub` of the low words then `subb` of the high words, with `C = 1` exactly when there is no
borrow (R353; decision D5, log 20). -/
def Obligations.ThirtyTwoBitSubtraction : Prop :=
  ∀ (s : State) (dLo aLo bLo dHi aHi bHi : Reg), dLo ≠ zeroReg → dHi ≠ zeroReg → dLo ≠ dHi → dLo ≠ aHi → dLo ≠ bHi →
    ∃ t, execAll [.subRR dLo aLo bLo, .subbRR dHi aHi bHi] s = .next t ∧
      t.reg dHi ++ t.reg dLo = (s.reg aHi ++ s.reg aLo) - (s.reg bHi ++ s.reg bLo) ∧
      t.flags.c = decide ((s.reg bHi ++ s.reg bLo).toNat ≤ (s.reg aHi ++ s.reg aLo).toNat)

/-- `mov` reads no first operand: to memory it never reads the word it overwrites, and the indexed load never reads the old
`rD` unless `rD` is the address register (R107, R175; decision D24, log 23). -/
def Obligations.MovReadsNoFirstOperand : Prop :=
  (∀ (s : State) (addr v : Word) (rA : Reg), exec (.movMD addr rA) (s.setRam addr v) = exec (.movMD addr rA) s) ∧
  (∀ (s : State) (v : Word) (rA rB : Reg),
    exec (.movMN rA rB) (s.setRam (s.reg rA) v) = exec (.movMN rA rB) s) ∧
  (∀ (s : State) (imm v : Word) (rA rB : Reg),
    exec (.movMX rA imm rB) (s.setRam (s.reg rA + imm) v) = exec (.movMX rA imm rB) s) ∧
  (∀ (s : State) (imm v : Word) (rD rA : Reg), rD ≠ rA →
    exec (.movRX rD rA imm) (s.setReg rD v) = exec (.movRX rD rA imm) s)

/-! ## Shifts -/

/-- Shifts by 1 to 15: `sll` multiplies by 2^n modulo 2^16, `srl` is the floor of the unsigned value by 2^n, `sra` the floor of
the signed value by 2^n; `Z` and `S` from the result, `C` and `V` drawn, nothing else changed; and the words `0001`, `0010`,
`0011` with amount, destination and source are these three instructions whatever the argument word (R210 to R213). The
ignored argument word is R65 (decision D9, log 12); the drawn `C` and `V` are free values (log 10). -/
def Obligations.ShiftsAreArithmetic : Prop :=
  ∀ (s : State) (rD rA : Reg) (n : BitVec 4) (arg : Word), n ≠ 0 →
    (decode (0b0001#4 ++ n ++ regBits rD ++ regBits rA) arg = .ok (.sll rD rA n) ∧
      decode (0b0010#4 ++ n ++ regBits rD ++ regBits rA) arg = .ok (.srl rD rA n) ∧
      decode (0b0011#4 ++ n ++ regBits rD ++ regBits rA) arg = .ok (.sra rD rA n)) ∧
    (∃ t, exec (.sll rD rA n) s = .next t ∧
      ShiftEffect rD (BitVec.ofNat 16 ((s.reg rA).toNat * 2 ^ n.toNat)) s t) ∧
    (∃ t, exec (.srl rD rA n) s = .next t ∧
      ShiftEffect rD (BitVec.ofNat 16 ((s.reg rA).toNat / 2 ^ n.toNat)) s t) ∧
    (∃ t, exec (.sra rD rA n) s = .next t ∧
      ShiftEffect rD (BitVec.ofInt 16 ((s.reg rA).toInt / 2 ^ n.toNat)) s t)

/-- A shift by 0 moves `pc` and changes nothing else: no register, no flag, no draw (R214; decision D14, log 18). -/
def Obligations.ShiftByZero : Prop :=
  ∀ (s : State) (rD rA : Reg),
    exec (.sll rD rA 0) s = .next { s with pc := s.pc + s.instrSize } ∧
    exec (.srl rD rA 0) s = .next { s with pc := s.pc + s.instrSize } ∧
    exec (.sra rD rA 0) s = .next { s with pc := s.pc + s.instrSize }

/-! ## `movb`, `swap`, `peek` -/

/-- `movb` loads the signed value of the low byte of the word at `rA + Imm16`; the upper byte does not matter (R220, R235;
decision D23, log 22). -/
def Obligations.MovbLoadsSignedByte : Prop :=
  ∀ (s : State) (rD rA : Reg) (imm : Word), s.ramKind (s.reg rA + imm) = .storage →
    ∃ t, exec (.movb rD rA imm) s = .next t ∧
      (t.reg rD).toInt = (if rD = zeroReg then 0
        else if (s.ramWord (s.reg rA + imm)).toNat % 256 < 128
          then ((s.ramWord (s.reg rA + imm)).toNat : Int) % 256
          else ((s.ramWord (s.reg rA + imm)).toNat : Int) % 256 - 256) ∧
      GoesOn s t [rD] []

/-- `swap` exchanges `rD` with the RAM word at the one address `rA + Imm16` computed from the old `rA`, also where `rD` is
`rA`; with `zero` the word becomes 0 (R230, R235; decisions D23 and D26, log 22, 23). -/
def Obligations.SwapExchanges : Prop :=
  ∀ (s : State) (rD rA : Reg) (imm : Word), s.ramKind (s.reg rA + imm) = .storage →
    ∃ t, exec (.swap rD rA imm) s = .next t ∧
      t.reg rD = (if rD = zeroReg then 0 else s.ramWord (s.reg rA + imm)) ∧
      t.ramWord (s.reg rA + imm) = s.reg rD ∧
      GoesOn s t [rD] [s.reg rA + imm]

/-- Constant `k` of a table of 16-bit constants that lies at ROM address `t`, two in a word and the first in the upper half, is
what the `peek` for it loads (R234). -/
def Obligations.PeekReadsConstantTable : Prop :=
  ∀ (s : State) (t : Word) (c : Nat → Word) (words k : Nat) (rD : Reg),
    (∀ j, j < words → s.romWord (t + BitVec.ofNat 16 j) = some (joinWords (c (2 * j)) (c (2 * j + 1)))) →
    k < 2 * words → rD ≠ zeroReg →
    ∃ u, exec (peekConstant rD t k) s = .next u ∧ u.reg rD = c k

/-! ## Stack -/

/-- `push(v)`: `sp` goes down by 1 modulo 2^16 and `v` is stored at the NEW `sp` (R240); nothing else changes. -/
def Obligations.PushPrimitive : Prop :=
  ∀ (s : State) (v : Word),
    (s.push v).reg spReg = s.reg spReg - 1 ∧ (s.push v).ramWord (s.reg spReg - 1) = v ∧
    Leaves s (s.push v) s.pc s.flags s.ms s.draws [spReg] [s.reg spReg - 1]

/-- `pop()`: the word at the OLD `sp` is returned and `sp` goes up by 1 modulo 2^16 (R241); nothing else changes, the
popped word stays in memory. -/
def Obligations.PopPrimitive : Prop :=
  ∀ s : State,
    s.popped = s.ramWord (s.reg spReg) ∧ s.dropTop.reg spReg = s.reg spReg + 1 ∧
    s.dropTop.ramWord (s.reg spReg) = s.ramWord (s.reg spReg) ∧
    Leaves s s.dropTop s.pc s.flags s.ms s.draws [spReg] []

/-- The three push instructions complete where the new top of the stack is storage; `pushf` stores a word whose flag bits are
the flags, whatever the layout, and whose other bits are drawn (R242 to R244, R30; decision D6, log 9, 11). -/
def Obligations.PushInstructions : Prop :=
  ∀ s : State, s.ramKind s.pushAddress = .storage →
    (∀ rB, rB ≠ spReg → ∃ t, exec (.pushR rB) s = .next t ∧ PushEffect (s.reg rB) 0 s t) ∧
    (∀ imm, ∃ t, exec (.pushI imm) s = .next t ∧ PushEffect imm 0 s t) ∧
    (∃ t w, exec .pushf s = .next t ∧ PushEffect w 1 s t ∧ wordToFlags Config.flagsLayout w = s.flags)

/-- The two pop instructions complete where the top of the stack is storage; `pop zero` drops the word; `popf` takes all
four flags from the word (R245, R246, R30; decisions D6 and D30, log 9). -/
def Obligations.PopInstructions : Prop :=
  ∀ s : State, s.ramKind s.popAddress = .storage →
    (∀ rD, rD ≠ spReg → ∃ t, exec (.pop rD) s = .next t ∧
      t.reg rD = (if rD = zeroReg then 0 else s.ramWord s.popAddress) ∧ t.reg spReg = s.reg spReg + 1 ∧
      GoesOn s t [spReg, rD] []) ∧
    (∃ t, exec .popf s = .next t ∧ t.reg spReg = s.reg spReg + 1 ∧
      Leaves s t (s.pc + s.instrSize) (wordToFlags Config.flagsLayout (s.ramWord s.popAddress)) s.ms s.draws [spReg] [])

/-- `sp` as the explicit operand of an instruction that moves it is refused by name (R247, R304; decision D15, log 14). -/
def Obligations.ReservedUsesOfSp : Prop :=
  ∀ s : State,
    exec (.pushR spReg) s = .refused (.reservedUseOfSp .pushSp) ∧
    exec (.pop spReg) s = .refused (.reservedUseOfSp .popSp) ∧
    exec (.callR spReg) s = .refused (.reservedUseOfSp .callSp) ∧
    exec (.syscallR spReg) s = .refused (.reservedUseOfSp .syscallSp) ∧
    exec (.enterR spReg) s = .refused (.reservedUseOfSp .enterSp)

/-- `push rB` then `pop rD` copies `rB` to `rD`, puts `sp` back, and changes no RAM word but the one below the stack (R240 to
R245). -/
def Obligations.PushThenPop : Prop :=
  ∀ (s : State) (rB rD : Reg), rB ≠ spReg → rD ≠ spReg → s.ramKind s.pushAddress = .storage →
    ∃ t, execAll [.pushR rB, .pop rD] s = .next t ∧
      t.reg rD = (if rD = zeroReg then 0 else s.reg rB) ∧ t.reg spReg = s.reg spReg ∧
      Leaves s t (s.pc + s.instrSize + s.instrSize) s.flags s.ms s.draws [rD] [s.pushAddress]

/-- The one law a program may use of the FLAGS word: reading back what was written gives the flags, under EVERY layout and
for every value of the twelve other bits, which come through unchanged (R30; decisions D6 and D30, log 9, 11). -/
def Obligations.FlagsWordRoundTrip : Prop :=
  ∀ (l : FlagsLayout) (F : Flags) (w : Word),
    wordToFlags l (flagsToWord l F w) = F ∧
    ∀ k : Fin 16, k ≠ l.posZ → k ≠ l.posC → k ≠ l.posV → k ≠ l.posS →
      (flagsToWord l F w).getLsbD k.val = w.getLsbD k.val

/-- The four positions of a layout are distinct, and every choice of four distinct positions is a layout (R30; decision D6,
log 9). -/
def Obligations.LayoutsAreDistinctPositions : Prop :=
  (∀ l : FlagsLayout, [l.posZ, l.posC, l.posV, l.posS].Nodup) ∧
  (∀ z c v s : Fin 16, [z, c, v, s].Nodup →
    ∃ l : FlagsLayout, l.posZ = z ∧ l.posC = c ∧ l.posV = v ∧ l.posS = s)

/-- `popf` gives back the flags that `pushf` saved, whatever ran between them, so long as `sp` is back at the saved word and
the word is untouched (R30, R244, R246; decision D6, log 9). -/
def Obligations.PopfRestoresFlags : Prop :=
  ∀ s t u : State, exec .pushf s = .next t → u.reg spReg = t.reg spReg → u.ramWord t.popAddress = t.ramWord t.popAddress →
    u.ramMap = t.ramMap → ∃ v, exec .popf u = .next v ∧ v.flags = s.flags ∧ v.reg spReg = s.reg spReg

/-! ## Jumps -/

/-- The sixteen jumps: `pc` becomes the target where the condition holds and `pc + N` otherwise, and NOTHING else changes;
2 clock cycles either way (R260; that the count is the same in RAM is log 32). Second clause: which flags each of the eight
conditions holds of, over all sixteen flag states (R261; the predicates are the spec's reconstruction, decision D8, log
21). -/
def Obligations.JumpRule : Prop :=
  (∀ (c : Cond) (s : State) (rA : Reg) (addr : Word),
    exec (.jumpR c rA) s = .next
      { s with pc := if condHolds c s.flags then s.reg rA
                     else s.pc + match s.ms with | .rom => 1#16 | .ram => 2#16 } ∧
    exec (.jumpI c addr) s = .next
      { s with pc := if condHolds c s.flags then addr
                     else s.pc + match s.ms with | .rom => 1#16 | .ram => 2#16 } ∧
    cycles (.jumpR c rA) = 2 ∧ cycles (.jumpI c addr) = 2) ∧
  (∀ F : Flags,
    condHolds .jmp F = true ∧
    (condHolds .jz F = true ↔ F.z = true) ∧
    (condHolds .jnz F = true ↔ F.z = false) ∧
    (condHolds .jc F = true ↔ F.c = true) ∧
    (condHolds .jnc F = true ↔ F.c = false) ∧
    (condHolds .jlt F = true ↔ F.s ≠ F.v) ∧
    (condHolds .jle F = true ↔ F.z = true ∨ F.s ≠ F.v) ∧
    (condHolds .jleu F = true ↔ F.c = false ∨ F.z = true))

/-- After `cmp rA, OPERAND`, in each of its four operand forms, the seven conditions order the two numbers: equality, unsigned
order and signed order; and no register has changed (R164, R261, R287; decisions D5 and D8, log 20, 21). -/
def Obligations.CompareContract : Prop :=
  ∀ (space : MemSpace) (pc : Word) (rA : Reg) (b : Operand) (is : List Instr) (s : State),
    (Macro.cmp rA b).expand space pc = some is → b.Readable s →
    ∃ t, execAll is s = .next t ∧ ComparesAs t.flags (s.reg rA) (b.value s) ∧ t.regs = s.regs

/-- A jump to its own address leaves the state unchanged for ever (R289, R358). -/
def Obligations.JumpToItself : Prop :=
  ∀ s : State, (∃ op, Holds s op s.pc ∧ decode op s.pc = .ok (.jmpI s.pc)) →
    ∀ n, Host.Core.run Sys2Proof.core n s = .next s

/-! ## Calls and returns -/

/-- The six calls: the address of the next instruction, by the space BEFORE the call, is pushed; `pc` goes to the target; `ms`
is unchanged for `call`, ROM for `syscall`, RAM for `enter`; 4 clock cycles (R290, R300). -/
def Obligations.CallRule : Prop :=
  (∀ s : State, s.ramKind s.pushAddress = .storage →
    (∀ rA, rA ≠ spReg →
      (∃ t, exec (.callR rA) s = .next t ∧ CallEffect (s.reg rA) s.ms s t) ∧
      (∃ t, exec (.syscallR rA) s = .next t ∧ CallEffect (s.reg rA) .rom s t) ∧
      (∃ t, exec (.enterR rA) s = .next t ∧ CallEffect (s.reg rA) .ram s t)) ∧
    (∀ addr,
      (∃ t, exec (.callI addr) s = .next t ∧ CallEffect addr s.ms s t) ∧
      (∃ t, exec (.syscallI addr) s = .next t ∧ CallEffect addr .rom s t) ∧
      (∃ t, exec (.enterI addr) s = .next t ∧ CallEffect addr .ram s t))) ∧
  (∀ rA addr, cycles (.callR rA) = 4 ∧ cycles (.syscallR rA) = 4 ∧ cycles (.enterR rA) = 4 ∧
    cycles (.callI addr) = 4 ∧ cycles (.syscallI addr) = 4 ∧ cycles (.enterI addr) = 4)

/-- The three returns: `pc` is the popped word as it stands, `sp` goes up by 1, and `ms` is unchanged for `ret`, RAM for
`sysret`, ROM for `exit`, whatever it was (R301). -/
def Obligations.ReturnRule : Prop :=
  ∀ s : State, s.ramKind s.popAddress = .storage →
    (∃ t, exec .ret s = .next t ∧ ReturnEffect s.ms s t) ∧
    (∃ t, exec .sysret s = .next t ∧ ReturnEffect .ram s t) ∧
    (∃ t, exec .exit s = .next t ∧ ReturnEffect .rom s t)

/-- The five correct pairs of call and return resume the caller, for both forms of each call: from a state `u` of the callee
with `sp` at the return address and that word untouched, the matching return goes to the instruction after the call, in
the caller's space, with the caller's `sp` (R302). A register form goes to the value of the register before the call. -/
def Obligations.MatchedCallAndReturn : Prop :=
  ∀ (call back : Instr) (s t u : State) (target : Word),
    let plain := call = .callI target ∨ ∃ rA, call = .callR rA ∧ target = s.reg rA
    let system := call = .syscallI target ∨ ∃ rA, call = .syscallR rA ∧ target = s.reg rA
    let entering := call = .enterI target ∨ ∃ rA, call = .enterR rA ∧ target = s.reg rA
    ((s.ms = .rom ∧ u.ms = .rom ∧ (plain ∨ system) ∧ back = .ret) ∨
      (s.ms = .ram ∧ u.ms = .ram ∧ (plain ∨ entering) ∧ back = .ret) ∨
      (s.ms = .ram ∧ u.ms = .rom ∧ system ∧ back = .sysret) ∨
      (s.ms = .rom ∧ u.ms = .ram ∧ entering ∧ back = .exit)) →
    exec call s = .next t → t.pc = target ∧ t.ms = u.ms ∧
      (u.reg spReg = t.reg spReg → u.ramWord t.popAddress = t.ramWord t.popAddress → u.ramMap = t.ramMap →
        ∃ v, exec back u = .next v ∧ v.pc = s.pc + s.instrSize ∧ v.ms = s.ms ∧ v.reg spReg = s.reg spReg)

/-! ## The whole machine -/

/-- Every instruction that is not a taken jump, a call or a return ends with `pc + N`, `N` being 1 in ROM and 2 in RAM
(R25). -/
def Obligations.SequentialAdvance : Prop :=
  ∀ (i : Instr) (s t : State), exec i s = .next t → isCallOrReturn i = false →
    (∀ c, jumpCond i = some c → condHolds c s.flags = false) →
    t.pc = s.pc + match s.ms with | .rom => 1#16 | .ram => 2#16

/-- `memSpace` after each instruction: only `syscall`, `enter`, `sysret` and `exit` write it, whatever its old value (R31,
R310). -/
def Obligations.MemSpaceWriters : Prop :=
  ∀ (i : Instr) (s t : State), exec i s = .next t → t.ms = msAfter i s.ms

/-- What writes the flags, instruction by instruction: none where the table says unchanged; where it says logic, `C` and `V`
are the next two draws; and how many draws each instruction makes (R28; decision D23, log 10, 22). -/
def Obligations.FlagWriters : Prop :=
  ∀ (i : Instr) (s t : State), exec i s = .next t →
    t.draws = s.draws + drawCount i ∧
    (flagEffect i = .unchanged → t.flags = s.flags) ∧
    (flagEffect i = .logic → t.flags.c = Config.drawBit s.draws ∧ t.flags.v = Config.drawBit (s.draws + 1)) ∧
    (flagEffect i = .popped → t.flags = wordToFlags Config.flagsLayout (s.ramWord s.popAddress))

/-- What reads the flags: an instruction other than the jumps, `addc`, `subb` and `pushf` does the same to everything but
the flags whatever the flags are, and where it writes them it writes the same (R29). For `and`, `or`, `xor` and shifts by 1
to 15 that the two runs draw the SAME `C` and `V` is the model's choice and no rule of the spec: a draw is fresh under no
law (R28, U1), and here both runs take it at the same count of draws (log 10). -/
def Obligations.FlagReaders : Prop :=
  ∀ (i : Instr) (s t : State) (F : Flags), readsFlags i = false → exec i s = .next t →
    exec i (s.setFlags F) = .next (t.setFlags (if flagEffect i = .unchanged then F else t.flags))

/-- The frame of all 100 instructions: no general register but those of `writtenRegs`, no RAM word but the one at
`storeAddress`, no word of ROM and nothing of the address map changes (R20, R35, R49). -/
def Obligations.FrameOfEveryInstruction : Prop :=
  ∀ (i : Instr) (s t : State), exec i s = .next t → SameBut (writtenRegs i) (storeAddress i s).toList s t

/-- An instruction has its effect EXACTLY where it is no reserved use of `sp`, its RAM address is storage and the ROM word it
reads is populated (R44, R50, R247, R304, R320; decisions D15 to D17, log 14, 15). -/
def Obligations.CompletesExactly : Prop :=
  ∀ (i : Instr) (s : State), (∃ t, exec i s = .next t) ↔ Completes i s

/-- A RAM access where the platform has a device or nothing is refused under that name, for every instruction that accesses
RAM (R50; decision D16, log 15). -/
def Obligations.OutsideStorageRefused : Prop :=
  ∀ (i : Instr) (s : State) (a : Word), i.wellFormed = true → ramAddress i s = some a →
    (s.ramKind a = .device → exec i s = .refused (.ramDevice a)) ∧
    (s.ramKind a = .absent → exec i s = .refused (.ramAbsent a))

/-- Every step keeps the invariant: both memories in canonical form and register 0's cell at 0, under every assignment of the
opcode numbers and at the spec's (R21, R34, R35). -/
def Obligations.StepKeepsInvariant : Prop :=
  (∀ (m : OpcodeAssignment) (s t : State), s.Inv → stepWith m s = .next t → t.Inv) ∧
  (∀ s t : State, s.Inv → step s = .next t → t.Inv)

/-- The reset state satisfies the invariant, for every entry point, every address map and every program image in canonical
form, and so at the defaults (R38; decision D18, log 5 to 7). -/
def Obligations.ResetInvariant : Prop :=
  (∀ (entry : Word) (image : Memory 32) (map : List RamRegion), image.wf = true →
    (State.resetWith entry image map).Inv) ∧
  State.reset.Inv

/-- What reset leaves, for every `RESET_PC`, `ROM_IMAGE` and `RAM_MAP` a harness passes: `x[0]` 0, `pc` at `RESET_PC`, `ms` ROM;
the other registers, the flags and every RAM word at the model's free values, of which nothing is said; and the first
instruction fetched is the image's word at `RESET_PC` (R38, R340 to R344; decision D18, log 2 to 7: the values are the
spec's decision and the model's choice, not the source's). The machine of the host starts at the defaults: `pc` 0, nothing
loaded, all storage. -/
def Obligations.ResetValues : Prop :=
  (∀ (entry : Word) (image : Memory 32) (map : List RamRegion),
    (State.resetWith entry image map).reg zeroReg = 0 ∧
    (State.resetWith entry image map).pc = entry ∧
    (State.resetWith entry image map).ms = .rom ∧
    (∀ r : Reg, r ≠ zeroReg → (State.resetWith entry image map).reg r = Config.resetRegister r.val) ∧
    (State.resetWith entry image map).flags =
      ⟨Config.resetFlag .z, Config.resetFlag .c, Config.resetFlag .v, Config.resetFlag .s⟩ ∧
    (∀ a : Word, (State.resetWith entry image map).ramKind a = ramKindIn map a ∧
      (State.resetWith entry image map).ramWord a = Config.unwrittenRam a.toNat ∧
      (State.resetWith entry image map).romWord a = image.read a.toNat) ∧
    (∀ I : RomWord, image.read entry.toNat = some I →
      (State.resetWith entry image map).fetch = .ok (I.extractLsb' 16 16, I.extractLsb' 0 16))) ∧
  State.reset = State.resetWith 0x0000 [] [] ∧
  (∀ a : Word, State.reset.ramKind a = .storage ∧ State.reset.romWord a = none)

/-! ## Macros and timing -/

/-- `not`, `nand`, `nor`, `xnor` complement; the two-instruction ones need a destination other than `zero`; `Z` and `S` are those
of the complemented result (R160, R161; log 28). -/
def Obligations.ComplementMacros : Prop :=
  (∀ (space : MemSpace) (pc : Word) (rD rA : Reg) (s : State), ∃ is t,
    (Macro.not rD rA).expand space pc = some is ∧ execAll is s = .next t ∧
      t.reg rD = (if rD = zeroReg then 0 else ~~~(s.reg rA)) ∧
      t.flags.z = decide (~~~(s.reg rA) = 0) ∧ t.flags.s = (~~~(s.reg rA)).msb) ∧
  (∀ (space : MemSpace) (pc : Word) (rD rA : Reg) (b : Operand) (s : State) (is : List Instr) (M : Macro) (r : Word),
    rD ≠ zeroReg → b.Readable s →
    (M = .nand rD rA b ∧ r = ~~~(s.reg rA &&& b.value s) ∨ M = .nor rD rA b ∧ r = ~~~(s.reg rA ||| b.value s) ∨
      M = .xnor rD rA b ∧ r = ~~~(s.reg rA ^^^ b.value s)) →
    M.expand space pc = some is →
    ∃ t, execAll is s = .next t ∧ t.reg rD = r ∧ t.flags.z = decide (r = 0) ∧ t.flags.s = r.msb)

/-- `sllc`: shift left by one with the carry coming in at bit 0 and the old bit 15 going out to `C` (R162; decision D5,
log 20). -/
def Obligations.ShiftLeftWithCarry : Prop :=
  ∀ (space : MemSpace) (pc : Word) (rD rA : Reg) (s : State), ∃ is t,
    (Macro.sllc rD rA).expand space pc = some is ∧ execAll is s = .next t ∧
      t.reg rD = (if rD = zeroReg then 0#16 else (s.reg rA <<< 1) ||| (BitVec.ofBool s.flags.c).setWidth 16) ∧
      t.flags.c = (s.reg rA).msb

/-- `movf`, `test` and "Clear flags": `Z` and `S` from the operand, `C = 0` and `V = 0` always, and only `movf` writes a register
(R163, R166, R167; decision D5, log 20, 28). -/
def Obligations.FlagMacros : Prop :=
  (∀ (space : MemSpace) (pc : Word) (rD : Reg) (b : Operand) (s : State) (is : List Instr),
    (Macro.movf rD b).expand space pc = some is → b.Readable s →
    ∃ t, execAll is s = .next t ∧ t.reg rD = (if rD = zeroReg then 0 else b.value s) ∧
      t.flags = ⟨decide (b.value s = 0), false, false, (b.value s).msb⟩) ∧
  (∀ (space : MemSpace) (pc : Word) (b : Operand) (s : State), b.Readable s →
    ∃ is t, (Macro.test b).expand space pc = some is ∧ execAll is s = .next t ∧ t.regs = s.regs ∧
      t.flags = ⟨decide (b.value s = 0), false, false, (b.value s).msb⟩) ∧
  (∀ (space : MemSpace) (pc : Word) (s : State),
    ∃ is t, Macro.clearFlags.expand space pc = some is ∧ execAll is s = .next t ∧ t.regs = s.regs ∧
      t.flags = ⟨false, false, false, false⟩)

/-- `nop` is `mov zero, zero`, all zeros, and its effect is `pc <- pc + N` only, in 2 clock cycles (R168). -/
def Obligations.NopRule : Prop :=
  ∀ (space : MemSpace) (pc : Word) (s : State),
    Macro.nop.expand space pc = some [.movRR zeroReg zeroReg] ∧
    encode (.movRR zeroReg zeroReg) = (0x0000, 0x0000) ∧ decode 0x0000 0x0000 = .ok (.movRR zeroReg zeroReg) ∧
    exec (.movRR zeroReg zeroReg) s = .next { s with pc := s.pc + s.instrSize } ∧
    cycles (.movRR zeroReg zeroReg) = 2

/-- `lbu`: the low byte of the word, zero extended, with `Z` and `S` of that value (`S` is 0) (R229; decision D23, log 22, 28). -/
def Obligations.LoadByteUnsigned : Prop :=
  ∀ (space : MemSpace) (pc : Word) (rD rA : Reg) (imm : Word) (s : State), rD ≠ zeroReg →
    s.ramKind (s.reg rA + imm) = .storage →
    ∃ is t, (Macro.lbu rD imm rA).expand space pc = some is ∧ execAll is s = .next t ∧
      (t.reg rD).toNat = (s.ramWord (s.reg rA + imm)).toNat % 256 ∧
      t.flags.z = decide ((s.ramWord (s.reg rA + imm)).toNat % 256 = 0) ∧ t.flags.s = false

/-- "Skip N instructions": a taken `JMP skip(N)` goes on `N + 1` instruction slots, in ROM by `N + 1` and in RAM by `2*(N + 1)`
addresses; not taken it goes to the next instruction; nothing else changes (R285, R286). -/
def Obligations.SkipJumps : Prop :=
  ∀ (c : Cond) (n : Word) (s : State), ∃ is,
    (Macro.skip c n).expand s.ms s.pc = some is ∧
    execAll is s = .next
      { s with pc := if condHolds c s.flags then s.pc + (n + 1) * s.instrSize else s.pc + s.instrSize }

/-- Every duration is fixed by the opcode byte alone, under EVERY legal assignment of the opcode numbers (R69, log 8), and a
shift by `n` takes `n + 1` cycles, from 1 to 16 (R215, R355, R356; log 26). The counts are those of the spec's table; that
they are the same in RAM as in ROM is the model's choice (log 32). -/
def Obligations.DurationsFixedByOpcode : Prop :=
  (∀ m : OpcodeAssignment, m.Legal → ∀ i j : Instr,
    (encodeOp m i).extractLsb' 8 8 = (encodeOp m j).extractLsb' 8 8 → cycles i = cycles j) ∧
  (∀ (rD rA : Reg) (n : BitVec 4), cycles (.sll rD rA n) = n.toNat + 1 ∧ cycles (.srl rD rA n) = n.toNat + 1 ∧
    cycles (.sra rD rA n) = n.toNat + 1)

end Statements
end

