-- ==== Sys2Proof/Laws/Fields.lean ====
section
/-! SUPPORT. What the fields of packed words are, and where the bits of the FLAGS word lie. -/

namespace Sys2Proof

/-! ## Opcode words -/

theorem regOf_regBits (r : Reg) : regOf (regBits r) = r := by
  revert r
  decide

theorem regBits_regOf (f : BitVec 4) : regBits (regOf f) = f := by
  revert f
  decide

theorem opMajor_packOp (w x y z : BitVec 4) : opMajor (packOp w x y z) = w := by
  unfold opMajor packOp
  ext k hk
  simp only [BitVec.getElem_extractLsb', BitVec.getLsbD_append]
  have h0 : ¬ (12 + k < 4) := by omega
  have h1 : ¬ (12 + k - 4 < 4) := by omega
  have h2 : ¬ (12 + k - 4 - 4 < 4) := by omega
  have h3 : 12 + k - 4 - 4 - 4 = k := by omega
  simp only [h0, h1, h2, h3, if_false]
  exact BitVec.getLsbD_eq_getElem hk

theorem opMinor_packOp (w x y z : BitVec 4) : opMinor (packOp w x y z) = x := by
  unfold opMinor packOp
  ext k hk
  simp only [BitVec.getElem_extractLsb', BitVec.getLsbD_append]
  have h0 : ¬ (8 + k < 4) := by omega
  have h1 : ¬ (8 + k - 4 < 4) := by omega
  have h2 : 8 + k - 4 - 4 < 4 := by omega
  have h3 : 8 + k - 4 - 4 = k := by omega
  simp only [h0, h1, h2, if_false, if_true]
  rw [h3]
  exact BitVec.getLsbD_eq_getElem hk

theorem opD_packOp (w x y z : BitVec 4) : opD (packOp w x y z) = y := by
  unfold opD packOp
  ext k hk
  simp only [BitVec.getElem_extractLsb', BitVec.getLsbD_append]
  have h0 : ¬ (4 + k < 4) := by omega
  have h1 : 4 + k - 4 < 4 := by omega
  have h3 : 4 + k - 4 = k := by omega
  simp only [h0, h1, if_false, if_true]
  rw [h3]
  exact BitVec.getLsbD_eq_getElem hk

theorem opA_packOp (w x y z : BitVec 4) : opA (packOp w x y z) = z := by
  unfold opA packOp
  ext k hk
  simp only [BitVec.getElem_extractLsb', BitVec.getLsbD_append]
  simp only [Nat.zero_add, hk, if_true]
  exact BitVec.getLsbD_eq_getElem hk

theorem argB_packB (r : Reg) : argB (packB r) = regBits r := by
  revert r
  decide

theorem functOf_packFunct (x : Bool) (f : BitVec 3) : functOf (packFunct x f) = f := by
  revert x f
  decide

theorem msb_packFunct (x : Bool) (f : BitVec 3) : (packFunct x f).msb = x := by
  revert x f
  decide

/-- The two nibbles of a byte, put together again. -/
theorem byte_of_nibbles (b : BitVec 8) : b.extractLsb' 4 4 ++ b.extractLsb' 0 4 = b := by
  revert b
  decide

/-! ## The numbers of an assignment (R67, R68) -/

/-- The decoder finds each operation at its own number. -/
theorem OpcodeAssignment.Legal.aluOp?_aluFunct {m : OpcodeAssignment} (h : m.Legal) (f : AluOp) :
    m.aluOp? (m.aluFunct f) = some f := by
  unfold OpcodeAssignment.aluOp?
  have hx : ∀ g, (m.aluFunct g == m.aluFunct f) = decide (g = f) := fun g => by
    rw [Bool.eq_iff_iff, beq_iff_eq, decide_eq_true_eq]
    exact h.aluFunct_injective.eq_iff
  simp only [hx]
  cases f <;> rfl

/-- The decoder finds each condition at its own number. -/
theorem OpcodeAssignment.Legal.cond?_jmpFunct {m : OpcodeAssignment} (h : m.Legal) (c : Cond) :
    m.cond? (m.jmpFunct c) = some c := by
  unfold OpcodeAssignment.cond?
  have hx : ∀ g, (m.jmpFunct g == m.jmpFunct c) = decide (g = c) := fun g => by
    rw [Bool.eq_iff_iff, beq_iff_eq, decide_eq_true_eq]
    exact h.jmpFunct_injective.eq_iff
  simp only [hx]
  cases c <;> rfl

/-! ## The FLAGS word (R30) -/

namespace Machine

/-- The bits of a word with one bit put. -/
theorem getLsbD_putBit (w : Word) (i k : Fin 16) (b : Bool) :
    (putBit w i b).getLsbD k.val = if k = i then b else w.getLsbD k.val := by
  have hi : i.val < 16 := i.isLt
  have hk : k.val < 16 := k.isLt
  have hv : k = i ↔ k.val = i.val := Fin.ext_iff
  unfold putBit
  simp only [BitVec.getLsbD_or, BitVec.getLsbD_and, BitVec.getLsbD_not, BitVec.getLsbD_shiftLeft, hk,
    BitVec.getLsbD_setWidth, hv, decide_true, Bool.true_and]
  by_cases h : k.val = i.val
  · rw [h]
    cases b <;> simp
  · simp only [h, if_false]
    rcases Nat.lt_or_gt_of_ne h with hlt | hgt
    · simp [hlt]
    · have h1 : k.val - i.val ≠ 0 := by omega
      cases b <;> simp [h1]

end Machine

end Sys2Proof
end

