-- ==== Sys2Proof/Laws/State.lean ====
section
/-! SUPPORT. One lemma per field per update of the state, so that no later proof unfolds a record update, and what the
accessors see of each update. -/

namespace Sys2Proof.Machine

/-! ## `setReg` -/

@[simp] theorem State.setReg_regs (s : State) (r : Reg) (v : Word) : (s.setReg r v).regs = writeReg s.regs r v := rfl

@[simp] theorem State.setReg_pc (s : State) (r : Reg) (v : Word) : (s.setReg r v).pc = s.pc := rfl

@[simp] theorem State.setReg_flags (s : State) (r : Reg) (v : Word) : (s.setReg r v).flags = s.flags := rfl

@[simp] theorem State.setReg_ms (s : State) (r : Reg) (v : Word) : (s.setReg r v).ms = s.ms := rfl

@[simp] theorem State.setReg_ram (s : State) (r : Reg) (v : Word) : (s.setReg r v).ram = s.ram := rfl

@[simp] theorem State.setReg_rom (s : State) (r : Reg) (v : Word) : (s.setReg r v).rom = s.rom := rfl

@[simp] theorem State.setReg_ramMap (s : State) (r : Reg) (v : Word) : (s.setReg r v).ramMap = s.ramMap := rfl

@[simp] theorem State.setReg_draws (s : State) (r : Reg) (v : Word) : (s.setReg r v).draws = s.draws := rfl

@[simp] theorem State.ramCell_setReg (s : State) (r : Reg) (v : Word) (b : Word) :
    (s.setReg r v).ramCell b = s.ramCell b := rfl

@[simp] theorem State.ramWord_setReg (s : State) (r : Reg) (v : Word) (b : Word) :
    (s.setReg r v).ramWord b = s.ramWord b := rfl

@[simp] theorem State.instrSize_setReg (s : State) (r : Reg) (v : Word) : (s.setReg r v).instrSize = s.instrSize := rfl

@[simp] theorem State.nextPc_setReg (s : State) (r : Reg) (v : Word) : (s.setReg r v).nextPc = s.nextPc := rfl

@[simp] theorem State.ramKind_setReg (s : State) (r : Reg) (v : Word) (b : Word) :
    (s.setReg r v).ramKind b = s.ramKind b := rfl

@[simp] theorem State.romWord_setReg (s : State) (r : Reg) (v : Word) (b : Word) :
    (s.setReg r v).romWord b = s.romWord b := rfl

/-! ## `setPc` -/

@[simp] theorem State.setPc_regs (s : State) (t : Word) : (s.setPc t).regs = s.regs := rfl

@[simp] theorem State.setPc_pc (s : State) (t : Word) : (s.setPc t).pc = t := rfl

@[simp] theorem State.setPc_flags (s : State) (t : Word) : (s.setPc t).flags = s.flags := rfl

@[simp] theorem State.setPc_ms (s : State) (t : Word) : (s.setPc t).ms = s.ms := rfl

@[simp] theorem State.setPc_ram (s : State) (t : Word) : (s.setPc t).ram = s.ram := rfl

@[simp] theorem State.setPc_rom (s : State) (t : Word) : (s.setPc t).rom = s.rom := rfl

@[simp] theorem State.setPc_ramMap (s : State) (t : Word) : (s.setPc t).ramMap = s.ramMap := rfl

@[simp] theorem State.setPc_draws (s : State) (t : Word) : (s.setPc t).draws = s.draws := rfl

@[simp] theorem State.reg_setPc (s : State) (t : Word) (q : Reg) : (s.setPc t).reg q = s.reg q := rfl

@[simp] theorem State.ramCell_setPc (s : State) (t : Word) (b : Word) :
    (s.setPc t).ramCell b = s.ramCell b := rfl

@[simp] theorem State.ramWord_setPc (s : State) (t : Word) (b : Word) :
    (s.setPc t).ramWord b = s.ramWord b := rfl

@[simp] theorem State.instrSize_setPc (s : State) (t : Word) : (s.setPc t).instrSize = s.instrSize := rfl

@[simp] theorem State.ramKind_setPc (s : State) (t : Word) (b : Word) :
    (s.setPc t).ramKind b = s.ramKind b := rfl

@[simp] theorem State.romWord_setPc (s : State) (t : Word) (b : Word) :
    (s.setPc t).romWord b = s.romWord b := rfl

/-! ## `setFlags` -/

@[simp] theorem State.setFlags_regs (s : State) (f : Flags) : (s.setFlags f).regs = s.regs := rfl

@[simp] theorem State.setFlags_pc (s : State) (f : Flags) : (s.setFlags f).pc = s.pc := rfl

@[simp] theorem State.setFlags_flags (s : State) (f : Flags) : (s.setFlags f).flags = f := rfl

@[simp] theorem State.setFlags_ms (s : State) (f : Flags) : (s.setFlags f).ms = s.ms := rfl

@[simp] theorem State.setFlags_ram (s : State) (f : Flags) : (s.setFlags f).ram = s.ram := rfl

@[simp] theorem State.setFlags_rom (s : State) (f : Flags) : (s.setFlags f).rom = s.rom := rfl

@[simp] theorem State.setFlags_ramMap (s : State) (f : Flags) : (s.setFlags f).ramMap = s.ramMap := rfl

@[simp] theorem State.setFlags_draws (s : State) (f : Flags) : (s.setFlags f).draws = s.draws := rfl

@[simp] theorem State.reg_setFlags (s : State) (f : Flags) (q : Reg) : (s.setFlags f).reg q = s.reg q := rfl

@[simp] theorem State.ramCell_setFlags (s : State) (f : Flags) (b : Word) :
    (s.setFlags f).ramCell b = s.ramCell b := rfl

@[simp] theorem State.ramWord_setFlags (s : State) (f : Flags) (b : Word) :
    (s.setFlags f).ramWord b = s.ramWord b := rfl

@[simp] theorem State.instrSize_setFlags (s : State) (f : Flags) : (s.setFlags f).instrSize = s.instrSize := rfl

@[simp] theorem State.nextPc_setFlags (s : State) (f : Flags) : (s.setFlags f).nextPc = s.nextPc := rfl

@[simp] theorem State.ramKind_setFlags (s : State) (f : Flags) (b : Word) :
    (s.setFlags f).ramKind b = s.ramKind b := rfl

@[simp] theorem State.romWord_setFlags (s : State) (f : Flags) (b : Word) :
    (s.setFlags f).romWord b = s.romWord b := rfl

/-! ## `setMs` -/

@[simp] theorem State.setMs_regs (s : State) (m : MemSpace) : (s.setMs m).regs = s.regs := rfl

@[simp] theorem State.setMs_pc (s : State) (m : MemSpace) : (s.setMs m).pc = s.pc := rfl

@[simp] theorem State.setMs_flags (s : State) (m : MemSpace) : (s.setMs m).flags = s.flags := rfl

@[simp] theorem State.setMs_ms (s : State) (m : MemSpace) : (s.setMs m).ms = m := rfl

@[simp] theorem State.setMs_ram (s : State) (m : MemSpace) : (s.setMs m).ram = s.ram := rfl

@[simp] theorem State.setMs_rom (s : State) (m : MemSpace) : (s.setMs m).rom = s.rom := rfl

@[simp] theorem State.setMs_ramMap (s : State) (m : MemSpace) : (s.setMs m).ramMap = s.ramMap := rfl

@[simp] theorem State.setMs_draws (s : State) (m : MemSpace) : (s.setMs m).draws = s.draws := rfl

@[simp] theorem State.reg_setMs (s : State) (m : MemSpace) (q : Reg) : (s.setMs m).reg q = s.reg q := rfl

@[simp] theorem State.ramCell_setMs (s : State) (m : MemSpace) (b : Word) :
    (s.setMs m).ramCell b = s.ramCell b := rfl

@[simp] theorem State.ramWord_setMs (s : State) (m : MemSpace) (b : Word) :
    (s.setMs m).ramWord b = s.ramWord b := rfl

@[simp] theorem State.ramKind_setMs (s : State) (m : MemSpace) (b : Word) :
    (s.setMs m).ramKind b = s.ramKind b := rfl

@[simp] theorem State.romWord_setMs (s : State) (m : MemSpace) (b : Word) :
    (s.setMs m).romWord b = s.romWord b := rfl

/-! ## `addDraws` -/

@[simp] theorem State.addDraws_regs (s : State) (n : Nat) : (s.addDraws n).regs = s.regs := rfl

@[simp] theorem State.addDraws_pc (s : State) (n : Nat) : (s.addDraws n).pc = s.pc := rfl

@[simp] theorem State.addDraws_flags (s : State) (n : Nat) : (s.addDraws n).flags = s.flags := rfl

@[simp] theorem State.addDraws_ms (s : State) (n : Nat) : (s.addDraws n).ms = s.ms := rfl

@[simp] theorem State.addDraws_ram (s : State) (n : Nat) : (s.addDraws n).ram = s.ram := rfl

@[simp] theorem State.addDraws_rom (s : State) (n : Nat) : (s.addDraws n).rom = s.rom := rfl

@[simp] theorem State.addDraws_ramMap (s : State) (n : Nat) : (s.addDraws n).ramMap = s.ramMap := rfl

@[simp] theorem State.addDraws_draws (s : State) (n : Nat) : (s.addDraws n).draws = s.draws + n := rfl

@[simp] theorem State.reg_addDraws (s : State) (n : Nat) (q : Reg) : (s.addDraws n).reg q = s.reg q := rfl

@[simp] theorem State.ramCell_addDraws (s : State) (n : Nat) (b : Word) :
    (s.addDraws n).ramCell b = s.ramCell b := rfl

@[simp] theorem State.ramWord_addDraws (s : State) (n : Nat) (b : Word) :
    (s.addDraws n).ramWord b = s.ramWord b := rfl

@[simp] theorem State.instrSize_addDraws (s : State) (n : Nat) : (s.addDraws n).instrSize = s.instrSize := rfl

@[simp] theorem State.nextPc_addDraws (s : State) (n : Nat) : (s.addDraws n).nextPc = s.nextPc := rfl

@[simp] theorem State.ramKind_addDraws (s : State) (n : Nat) (b : Word) :
    (s.addDraws n).ramKind b = s.ramKind b := rfl

@[simp] theorem State.romWord_addDraws (s : State) (n : Nat) (b : Word) :
    (s.addDraws n).romWord b = s.romWord b := rfl

/-! ## `setRam` -/

@[simp] theorem State.setRam_regs (s : State) (a v : Word) : (s.setRam a v).regs = s.regs := rfl

@[simp] theorem State.setRam_pc (s : State) (a v : Word) : (s.setRam a v).pc = s.pc := rfl

@[simp] theorem State.setRam_flags (s : State) (a v : Word) : (s.setRam a v).flags = s.flags := rfl

@[simp] theorem State.setRam_ms (s : State) (a v : Word) : (s.setRam a v).ms = s.ms := rfl

@[simp] theorem State.setRam_ram (s : State) (a v : Word) : (s.setRam a v).ram = s.ram.write a.toNat v := rfl

@[simp] theorem State.setRam_rom (s : State) (a v : Word) : (s.setRam a v).rom = s.rom := rfl

@[simp] theorem State.setRam_ramMap (s : State) (a v : Word) : (s.setRam a v).ramMap = s.ramMap := rfl

@[simp] theorem State.setRam_draws (s : State) (a v : Word) : (s.setRam a v).draws = s.draws := rfl

@[simp] theorem State.reg_setRam (s : State) (a v : Word) (q : Reg) : (s.setRam a v).reg q = s.reg q := rfl

@[simp] theorem State.instrSize_setRam (s : State) (a v : Word) : (s.setRam a v).instrSize = s.instrSize := rfl

@[simp] theorem State.nextPc_setRam (s : State) (a v : Word) : (s.setRam a v).nextPc = s.nextPc := rfl

@[simp] theorem State.ramKind_setRam (s : State) (a v : Word) (b : Word) :
    (s.setRam a v).ramKind b = s.ramKind b := rfl

@[simp] theorem State.romWord_setRam (s : State) (a v : Word) (b : Word) :
    (s.setRam a v).romWord b = s.romWord b := rfl

/-! ## `advance` -/

@[simp] theorem State.advance_regs (s : State) : s.advance.regs = s.regs := rfl

@[simp] theorem State.advance_pc (s : State) : s.advance.pc = s.nextPc := rfl

@[simp] theorem State.advance_flags (s : State) : s.advance.flags = s.flags := rfl

@[simp] theorem State.advance_ms (s : State) : s.advance.ms = s.ms := rfl

@[simp] theorem State.advance_ram (s : State) : s.advance.ram = s.ram := rfl

@[simp] theorem State.advance_rom (s : State) : s.advance.rom = s.rom := rfl

@[simp] theorem State.advance_ramMap (s : State) : s.advance.ramMap = s.ramMap := rfl

@[simp] theorem State.advance_draws (s : State) : s.advance.draws = s.draws := rfl

@[simp] theorem State.reg_advance (s : State) (b : Reg) : s.advance.reg b = s.reg b := rfl

@[simp] theorem State.ramCell_advance (s : State) (b : Word) : s.advance.ramCell b = s.ramCell b := rfl

@[simp] theorem State.ramWord_advance (s : State) (b : Word) : s.advance.ramWord b = s.ramWord b := rfl

@[simp] theorem State.ramKind_advance (s : State) (b : Word) : s.advance.ramKind b = s.ramKind b := rfl

@[simp] theorem State.romWord_advance (s : State) (b : Word) : s.advance.romWord b = s.romWord b := rfl

/-! ## `nextPc` -/

theorem State.nextPc_eq (s : State) : s.nextPc = s.pc + s.instrSize := rfl

/-! ## Reset -/

@[simp] theorem State.resetWith_pc (e : Word) (I : Memory 32) (M : List RamRegion) : (State.resetWith e I M).pc = e := rfl

@[simp] theorem State.resetWith_ms (e : Word) (I : Memory 32) (M : List RamRegion) : (State.resetWith e I M).ms = .rom := rfl

@[simp] theorem State.resetWith_ram (e : Word) (I : Memory 32) (M : List RamRegion) : (State.resetWith e I M).ram = [] := rfl

@[simp] theorem State.resetWith_rom (e : Word) (I : Memory 32) (M : List RamRegion) : (State.resetWith e I M).rom = I := rfl

@[simp] theorem State.resetWith_ramMap (e : Word) (I : Memory 32) (M : List RamRegion) :
    (State.resetWith e I M).ramMap = M := rfl

@[simp] theorem State.resetWith_draws (e : Word) (I : Memory 32) (M : List RamRegion) :
    (State.resetWith e I M).draws = 0 := rfl

end Sys2Proof.Machine
end

