-- ==== Sys2Proof/Laws/Memory.lean ====
section
/-! SUPPORT. The laws of memories and of the register file: a read after a write, the canonical form, register 0. -/

namespace Sys2Proof.Machine

/-! ## Memories -/

@[simp] theorem Memory.read_nil {w : Nat} (a : Nat) : Memory.read ([] : Memory w) a = none := rfl

theorem Memory.read_cons {w : Nat} (k a : Nat) (v : BitVec w) (m : Memory w) :
    Memory.read ((k, v) :: m) a = if k = a then some v else Memory.read m a := rfl

/-- A read after a write to the same address gives the word written. -/
@[simp] theorem Memory.read_write_same {w : Nat} (m : Memory w) (a : Nat) (v : BitVec w) :
    (m.write a v).read a = some v := by
  induction m with
  | nil => simp [Memory.write, Memory.read]
  | cons c rest ih =>
    obtain ⟨k, u⟩ := c
    simp only [Memory.write]
    split
    · simp [Memory.read]
    · split
      · simp [Memory.read]
      · simp_all [Memory.read]

/-- A write leaves every other address alone. -/
theorem Memory.read_write_other {w : Nat} (m : Memory w) {a b : Nat} (v : BitVec w) (h : b ≠ a) :
    (m.write a v).read b = m.read b := by
  induction m with
  | nil => simp [Memory.write, Memory.read, Ne.symm h]
  | cons c rest ih =>
    obtain ⟨k, u⟩ := c
    simp only [Memory.write]
    split
    · simp [Memory.read, Ne.symm h]
    · split
      · rename_i hk
        subst hk
        simp [Memory.read, Ne.symm h]
      · simp [Memory.read, ih]

theorem Memory.risesFrom_mono {w : Nat} (m : Memory w) {lo hi : Nat} (h : lo ≤ hi) (hm : m.risesFrom hi = true) :
    m.risesFrom lo = true := by
  cases m with
  | nil => rfl
  | cons c rest =>
    simp only [Memory.risesFrom, Bool.and_eq_true, decide_eq_true_eq] at hm ⊢
    exact ⟨⟨by omega, hm.1.2⟩, hm.2⟩

theorem Memory.risesFrom_write {w : Nat} (m : Memory w) {lo a : Nat} (v : BitVec w) (hlo : lo ≤ a)
    (ha : a < addressCount) (hm : m.risesFrom lo = true) : (m.write a v).risesFrom lo = true := by
  induction m generalizing lo with
  | nil => simp [Memory.write, Memory.risesFrom, hlo, ha]
  | cons c rest ih =>
    obtain ⟨k, u⟩ := c
    simp only [Memory.risesFrom, Bool.and_eq_true, decide_eq_true_eq] at hm
    simp only [Memory.write]
    split
    · simp only [Memory.risesFrom, Bool.and_eq_true, decide_eq_true_eq]
      exact ⟨⟨hlo, ha⟩, ⟨by omega, hm.1.2⟩, hm.2⟩
    · split
      · rename_i hk
        subst hk
        simp [Memory.risesFrom, hm]
      · simp only [Memory.risesFrom, Bool.and_eq_true, decide_eq_true_eq]
        exact ⟨hm.1, ih (by omega) hm.2⟩

/-- A write inside the address space keeps the canonical form. -/
theorem Memory.wf_write {w : Nat} (m : Memory w) {a : Nat} (v : BitVec w) (ha : a < addressCount)
    (hm : m.wf = true) : (m.write a v).wf = true :=
  Memory.risesFrom_write m v (Nat.zero_le a) ha hm

/-- A write at a 16-bit address keeps the canonical form. -/
theorem Memory.wf_write_word {w : Nat} (m : Memory w) (a : Word) (v : BitVec w) (hm : m.wf = true) :
    (m.write a.toNat v).wf = true :=
  Memory.wf_write m v a.isLt hm

theorem Memory.read_none_of_risesFrom {w : Nat} (m : Memory w) {lo a : Nat} (h : a < lo)
    (hm : m.risesFrom lo = true) : m.read a = none := by
  induction m generalizing lo with
  | nil => rfl
  | cons c rest ih =>
    obtain ⟨k, u⟩ := c
    simp only [Memory.risesFrom, Bool.and_eq_true, decide_eq_true_eq] at hm
    rw [Memory.read_cons, if_neg (by omega)]
    exact ih (by omega) hm.2

/-- In canonical form, memories that read alike are equal data. -/
theorem Memory.ext_of_risesFrom {w : Nat} (m n : Memory w) (lo : Nat) (hm : m.risesFrom lo = true)
    (hn : n.risesFrom lo = true) (h : ∀ a, m.read a = n.read a) : m = n := by
  induction m generalizing n lo with
  | nil =>
    cases n with
    | nil => rfl
    | cons c rest => simpa [Memory.read] using h c.1
  | cons c rest ih =>
    obtain ⟨k, u⟩ := c
    cases n with
    | nil => simpa [Memory.read] using h k
    | cons d rest' =>
      obtain ⟨l, v⟩ := d
      simp only [Memory.risesFrom, Bool.and_eq_true, decide_eq_true_eq] at hm hn
      have hkl : k = l := by
        rcases Nat.lt_trichotomy k l with hlt | heq | hgt
        · have := h k
          rw [Memory.read_cons, if_pos rfl, Memory.read_cons, if_neg (by omega),
            Memory.read_none_of_risesFrom rest' (by omega) hn.2] at this
          cases this
        · exact heq
        · have := h l
          rw [Memory.read_cons, if_neg (by omega), Memory.read_cons, if_pos rfl,
            Memory.read_none_of_risesFrom rest (by omega) hm.2] at this
          cases this
      subst hkl
      have huv : u = v := by simpa [Memory.read] using h k
      subst huv
      have htail : ∀ a, Memory.read rest a = Memory.read rest' a := by
        intro a
        by_cases hk : k = a
        · subst hk
          rw [Memory.read_none_of_risesFrom rest (Nat.lt_succ_self k) hm.2,
            Memory.read_none_of_risesFrom rest' (Nat.lt_succ_self k) hn.2]
        · simpa [Memory.read, hk] using h a
      rw [ih rest' (k + 1) hm.2 hn.2 htail]

/-! ## RAM and ROM of a state -/

@[simp] theorem State.ramCell_setRam_same (s : State) (a v : Word) : (s.setRam a v).ramCell a = some v := by
  simp [State.ramCell]

theorem State.ramCell_setRam_other (s : State) {a b : Word} (v : Word) (h : b ≠ a) :
    (s.setRam a v).ramCell b = s.ramCell b := by
  simp only [State.ramCell, State.setRam_ram]
  exact Memory.read_write_other _ _ (fun e => h (BitVec.eq_of_toNat_eq e))

@[simp] theorem State.ramWord_setRam_same (s : State) (a v : Word) : (s.setRam a v).ramWord a = v := by
  simp [State.ramWord]

theorem State.ramWord_setRam_other (s : State) {a b : Word} (v : Word) (h : b ≠ a) :
    (s.setRam a v).ramWord b = s.ramWord b := by
  simp only [State.ramWord, State.ramCell_setRam_other s v h]

/-! ## Registers -/

theorem readReg_zero (regs : Vector Word 16) : readReg regs zeroReg = 0 := rfl

theorem readReg_writeReg_same (regs : Vector Word 16) (r : Reg) (v : Word) :
    readReg (writeReg regs r v) r = if r = zeroReg then 0 else v := by
  unfold readReg writeReg
  split
  · rfl
  · simp [Vector.get_eq_getElem]

theorem readReg_writeReg_other (regs : Vector Word 16) {r q : Reg} (v : Word) (h : q ≠ r) :
    readReg (writeReg regs r v) q = readReg regs q := by
  unfold readReg writeReg
  split
  · rfl
  · split
    · rfl
    · have hv : r.val ≠ q.val := fun e => h (Fin.ext e.symm)
      simp [Vector.get_eq_getElem, hv]

/-- Register 0 reads as 0 in every state (R21). -/
@[simp] theorem State.reg_zeroReg (s : State) : s.reg zeroReg = 0 := rfl

@[simp] theorem State.reg_setReg_same (s : State) (r : Reg) (v : Word) :
    (s.setReg r v).reg r = if r = zeroReg then 0 else v :=
  readReg_writeReg_same s.regs r v

theorem State.reg_setReg_other (s : State) {r q : Reg} (v : Word) (h : q ≠ r) : (s.setReg r v).reg q = s.reg q :=
  readReg_writeReg_other s.regs v h

/-- A write to register 0 is discarded (R21). -/
@[simp] theorem State.setReg_zeroReg (s : State) (v : Word) : s.setReg zeroReg v = s := rfl

/-- A register write keeps the unused cell of register 0. -/
theorem writeReg_get_zero (regs : Vector Word 16) (r : Reg) (v : Word) :
    (writeReg regs r v).get zeroReg = regs.get zeroReg := by
  unfold writeReg
  split
  · rfl
  · rename_i h
    have h0 : ¬ r = 0 := h
    simp [Vector.get_eq_getElem, h0]

/-- After reset both memories are in canonical form, if the program image passed is. -/
theorem resetWith_memories_wf (entry : Word) {image : Memory 32} (map : List RamRegion) (h : image.wf = true) :
    (State.resetWith entry image map).ram.wf = true ∧ (State.resetWith entry image map).rom.wf = true := ⟨rfl, h⟩

/-- The default reset state's memories are in canonical form. -/
theorem reset_memories_wf : State.reset.ram.wf = true ∧ State.reset.rom.wf = true := resetWith_memories_wf _ _ rfl

end Sys2Proof.Machine
end

