-- ==== Sys2Proof/Laws/Operations.lean ====
section
/-! SUPPORT. For each shared operation of Machine/Ops.lean and Machine/Operands.lean, one lemma that says once everything it
can do. Later proofs cite these and unfold none of the operations. -/

namespace Sys2Proof.Machine

/-! ## Going on or refusing -/

theorem State.onStorage_storage {s : State} {a : Word} {k : Outcome} (h : s.ramKind a = .storage) :
    s.onStorage a k = k := by
  simp [State.onStorage, h]

theorem State.onStorage_device {s : State} {a : Word} {k : Outcome} (h : s.ramKind a = .device) :
    s.onStorage a k = .refused (.ramDevice a) := by
  simp [State.onStorage, h]

theorem State.onStorage_absent {s : State} {a : Word} {k : Outcome} (h : s.ramKind a = .absent) :
    s.onStorage a k = .refused (.ramAbsent a) := by
  simp [State.onStorage, h]

/-- An instruction that accesses RAM goes on exactly where the address is storage. -/
theorem State.onStorage_eq_next {s : State} {a : Word} {k : Outcome} {t : State} :
    s.onStorage a k = .next t ↔ s.ramKind a = .storage ∧ k = .next t := by
  unfold State.onStorage
  split <;> simp_all

theorem unlessSp_of_ne {r : Reg} {why : IllFormed} {k : Outcome} (h : r ≠ spReg) : unlessSp r why k = k := if_neg h

theorem unlessSp_spReg {why : IllFormed} {k : Outcome} : unlessSp spReg why k = .refused (.reservedUseOfSp why) := rfl

/-- An instruction with an explicit register operand that may not be `sp` goes on exactly where it is not. -/
theorem unlessSp_eq_next {r : Reg} {why : IllFormed} {k : Outcome} {t : State} :
    unlessSp r why k = .next t ↔ r ≠ spReg ∧ k = .next t := by
  unfold unlessSp
  split <;> simp_all

theorem State.peekAt_eq_next {s : State} {rD : Reg} {ea : Word} {half : RomHalf} {t : State} :
    s.peekAt rD ea half = .next t ↔
      ∃ I, s.romWord ea = some I ∧ t = (s.setReg rD (romHalf I half)).advance := by
  unfold State.peekAt
  cases hI : s.romWord ea with
  | none => simp
  | some I =>
    constructor
    · intro h
      injection h with h
      exact ⟨I, rfl, h.symm⟩
    · rintro ⟨J, hJ, rfl⟩
      cases hJ
      rfl

/-! ## Frames of the updates -/

theorem SameBut.refl (rs : List Reg) (as : List Word) (s : State) : SameBut rs as s s :=
  ⟨fun _ _ => rfl, fun _ _ => rfl, fun _ _ => rfl, rfl, rfl⟩

theorem SameBut.trans {rs : List Reg} {as : List Word} {s t u : State} (h : SameBut rs as s t)
    (k : SameBut rs as t u) : SameBut rs as s u :=
  ⟨fun r hr => (k.regs r hr).trans (h.regs r hr), fun a ha => (k.cells a ha).trans (h.cells a ha),
    fun a ha => (k.words a ha).trans (h.words a ha), k.rom.trans h.rom, k.ramMap.trans h.ramMap⟩

theorem SameBut.mono {rs rs' : List Reg} {as as' : List Word} {s t : State} (h : SameBut rs as s t)
    (hr : ∀ r ∈ rs, r ∈ rs') (ha : ∀ a ∈ as, a ∈ as') : SameBut rs' as' s t :=
  ⟨fun r hn => h.regs r (fun m => hn (hr r m)), fun a hn => h.cells a (fun m => hn (ha a m)),
    fun a hn => h.words a (fun m => hn (ha a m)), h.rom, h.ramMap⟩

theorem SameBut.setReg {rs : List Reg} {as : List Word} {s t : State} (h : SameBut rs as s t) {r : Reg} (v : Word)
    (hr : r ∈ rs) : SameBut rs as s (t.setReg r v) :=
  ⟨fun q hq => (State.reg_setReg_other t v (fun e => hq (by rw [e]; exact hr))).trans (h.regs q hq), h.cells, h.words, h.rom,
    h.ramMap⟩

theorem SameBut.setRam {rs : List Reg} {as : List Word} {s t : State} (h : SameBut rs as s t) {a : Word} (v : Word)
    (ha : a ∈ as) : SameBut rs as s (t.setRam a v) :=
  ⟨h.regs, fun b hb => (State.ramCell_setRam_other t v (fun e => hb (by rw [e]; exact ha))).trans (h.cells b hb),
    fun b hb => (State.ramWord_setRam_other t v (fun e => hb (by rw [e]; exact ha))).trans (h.words b hb), h.rom, h.ramMap⟩

theorem SameBut.setPc {rs : List Reg} {as : List Word} {s t : State} (h : SameBut rs as s t) (v : Word) :
    SameBut rs as s (t.setPc v) := ⟨h.regs, h.cells, h.words, h.rom, h.ramMap⟩

theorem SameBut.advance {rs : List Reg} {as : List Word} {s t : State} (h : SameBut rs as s t) :
    SameBut rs as s t.advance := h.setPc _

theorem SameBut.setMs {rs : List Reg} {as : List Word} {s t : State} (h : SameBut rs as s t) (m : MemSpace) :
    SameBut rs as s (t.setMs m) := ⟨h.regs, h.cells, h.words, h.rom, h.ramMap⟩

theorem SameBut.setFlags {rs : List Reg} {as : List Word} {s t : State} (h : SameBut rs as s t) (F : Flags) :
    SameBut rs as s (t.setFlags F) := ⟨h.regs, h.cells, h.words, h.rom, h.ramMap⟩

theorem SameBut.addDraws {rs : List Reg} {as : List Word} {s t : State} (h : SameBut rs as s t) (n : Nat) :
    SameBut rs as s (t.addDraws n) := ⟨h.regs, h.cells, h.words, h.rom, h.ramMap⟩

/-! ## What each operation does -/

theorem State.aluToReg_effect (s : State) (f : AluOp) (rD : Reg) (a b : Word) :
    AluToRegEffect f rD a b s (s.aluToReg f rD a b) where
  result := by simp [State.aluToReg, State.aluUpdate]
  others := ⟨rfl, rfl, rfl, rfl,
    ((((SameBut.refl _ _ s).setFlags _).addDraws _).setReg _ (List.mem_singleton.2 rfl)).advance⟩

theorem State.movToReg_effect (s : State) (rD : Reg) (a v : Word) : AluToRegEffect .mov rD a v s (s.movToReg rD v) where
  result := by simp [State.movToReg, aluResult]
  others := ⟨rfl, rfl, rfl, rfl, ((SameBut.refl _ _ s).setReg _ (List.mem_singleton.2 rfl)).advance⟩

theorem State.aluToRam_effect (s : State) (f : AluOp) (ea b : Word) : AluToRamEffect f ea b s (s.aluToRam f ea b) where
  result := by simp [State.aluToRam, State.aluUpdate]
  others := ⟨rfl, rfl, rfl, rfl,
    ((((SameBut.refl _ _ s).setFlags _).addDraws _).setRam _ (List.mem_singleton.2 rfl)).advance⟩

theorem State.movToRam_effect (s : State) (ea b : Word) : AluToRamEffect .mov ea b s (s.movToRam ea b) where
  result := by simp [State.movToRam, aluResult]
  others := ⟨rfl, rfl, rfl, rfl, ((SameBut.refl _ _ s).setRam _ (List.mem_singleton.2 rfl)).advance⟩

theorem State.shiftToReg_effect (s : State) (t : ShiftOp) (rD rA : Reg) (n : Nat) :
    ShiftEffect rD (shiftResult t (s.reg rA) n) s (s.shiftToReg t rD rA n) where
  result := by simp [State.shiftToReg]
  others := ⟨rfl, rfl, rfl, rfl,
    ((((SameBut.refl _ _ s).setFlags _).addDraws _).setReg _ (List.mem_singleton.2 rfl)).advance⟩

theorem State.shift_zero (s : State) (t : ShiftOp) (rD rA : Reg) : s.shift t rD rA 0 = s.advance := rfl

theorem State.shift_nonzero (s : State) (t : ShiftOp) (rD rA : Reg) {n : BitVec 4} (h : n ≠ 0) :
    s.shift t rD rA n = s.shiftToReg t rD rA n.toNat := if_neg h

theorem State.loadByte_goesOn (s : State) (rD : Reg) (ea : Word) : GoesOn s (s.loadByte rD ea) [rD] [] :=
  ⟨rfl, rfl, rfl, rfl, ((SameBut.refl _ _ s).setReg _ (List.mem_singleton.2 rfl)).advance⟩

theorem State.loadByte_result (s : State) (rD : Reg) (ea : Word) :
    (s.loadByte rD ea).reg rD = if rD = zeroReg then 0 else sext8 (s.ramWord ea) := by
  simp [State.loadByte]

theorem State.exchange_goesOn (s : State) (rD : Reg) (ea : Word) : GoesOn s (s.exchange rD ea) [rD] [ea] :=
  ⟨rfl, rfl, rfl, rfl, (((SameBut.refl _ _ s).setReg _ (List.mem_singleton.2 rfl)).setRam _
    (List.mem_singleton.2 rfl)).advance⟩

theorem State.exchange_result (s : State) (rD : Reg) (ea : Word) :
    (s.exchange rD ea).reg rD = (if rD = zeroReg then 0 else s.ramWord ea) ∧
      (s.exchange rD ea).ramWord ea = s.reg rD := by
  simp [State.exchange]

theorem State.push_reg_sp (s : State) (v : Word) : (s.push v).reg spReg = s.pushAddress := by
  simp only [State.push, State.reg_setRam, State.reg_setReg_same]
  rfl

theorem State.push_word (s : State) (v : Word) : (s.push v).ramWord s.pushAddress = v := by
  simp [State.push]

theorem State.push_frame (s : State) (v : Word) : SameBut [spReg] [s.pushAddress] s (s.push v) :=
  ((SameBut.refl _ _ s).setReg _ (List.mem_singleton.2 rfl)).setRam _ (List.mem_singleton.2 rfl)

theorem State.dropTop_reg_sp (s : State) : s.dropTop.reg spReg = s.reg spReg + 1 := by
  simp only [State.dropTop, State.reg_setReg_same]
  rfl

theorem State.dropTop_frame (s : State) : SameBut [spReg] [] s s.dropTop :=
  (SameBut.refl _ _ s).setReg _ (List.mem_singleton.2 rfl)

theorem State.pushThenAdvance_eq_next {s t : State} {v : Word} :
    s.pushThenAdvance v = .next t ↔ s.ramKind s.pushAddress = .storage ∧ (s.push v).advance = t := by
  simp [State.pushThenAdvance, State.onStorage_eq_next]

theorem State.push_advance_effect (s : State) (v : Word) : PushEffect v 0 s (s.push v).advance where
  sp := State.push_reg_sp s v
  pushed := State.push_word s v
  others := ⟨rfl, rfl, rfl, rfl, (State.push_frame s v).advance⟩

theorem State.callTo_eq_next {s t : State} {target : Word} {space : MemSpace} :
    s.callTo target space = .next t ↔
      s.ramKind s.pushAddress = .storage ∧ ((s.push s.nextPc).setPc target).setMs space = t := by
  simp [State.callTo, State.onStorage_eq_next]

theorem State.callTo_effect (s : State) (target : Word) (space : MemSpace) :
    CallEffect target space s (((s.push s.nextPc).setPc target).setMs space) where
  sp := State.push_reg_sp s s.nextPc
  pushed := State.push_word s s.nextPc
  others := ⟨rfl, rfl, rfl, rfl, ((State.push_frame s s.nextPc).setPc _).setMs _⟩

theorem State.returnTo_eq_next {s t : State} {space : MemSpace} :
    s.returnTo space = .next t ↔
      s.ramKind s.popAddress = .storage ∧ (s.dropTop.setPc s.popped).setMs space = t := by
  simp [State.returnTo, State.onStorage_eq_next]

theorem State.returnTo_effect (s : State) (space : MemSpace) :
    ReturnEffect space s ((s.dropTop.setPc s.popped).setMs space) where
  sp := State.dropTop_reg_sp s
  others := ⟨rfl, rfl, rfl, rfl, ((State.dropTop_frame s).setPc _).setMs _⟩

theorem State.popToReg_eq_next {s t : State} {rD : Reg} :
    s.popToReg rD = .next t ↔ s.ramKind s.popAddress = .storage ∧ (s.dropTop.setReg rD s.popped).advance = t := by
  simp [State.popToReg, State.onStorage_eq_next]

theorem State.popToFlags_eq_next {s t : State} :
    s.popToFlags = .next t ↔ s.ramKind s.popAddress = .storage ∧
      (s.dropTop.setFlags (wordToFlags Config.flagsLayout s.popped)).advance = t := by
  simp [State.popToFlags, State.onStorage_eq_next]

theorem State.jump_eq (s : State) (c : Cond) (target : Word) :
    s.jump c target = s.setPc (if condHolds c s.flags then target else s.nextPc) := rfl

/-! ## Fetch -/

theorem opWord_joinWords (op arg : Word) : opWord (joinWords op arg) = op := by
  unfold opWord joinWords
  ext k hk
  rw [BitVec.getElem_extractLsb', BitVec.getLsbD_append]
  simp [BitVec.getLsbD_eq_getElem hk]

theorem argWord_joinWords (op arg : Word) : argWord (joinWords op arg) = arg := by
  unfold argWord joinWords
  ext k hk
  rw [BitVec.getElem_extractLsb', BitVec.getLsbD_append]
  simp [hk]

theorem State.fetch_of_holds {s : State} {op arg : Word} (h : Holds s op arg) : s.fetch = .ok (op, arg) := by
  rcases h with ⟨hm, hr⟩ | ⟨hm, h0, h1, rfl, rfl⟩
  · simp only [State.fetch, hm, State.fetchFromRom, hr, opWord_joinWords, argWord_joinWords]
  · simp only [State.fetch, hm, State.fetchFromRam, State.fetchRamWord, h0, h1]

/-- A fetch from RAM is the two words at `pc`, where both are storage. -/
theorem State.fetch_ram {s : State} (hm : s.ms = .ram) (h0 : s.ramKind s.pc = .storage)
    (h1 : s.ramKind (s.pc + 1) = .storage) : s.fetch = .ok (s.ramWord s.pc, s.ramWord (s.pc + 1)) := by
  simp only [State.fetch, hm, State.fetchFromRam, State.fetchRamWord, h0, h1]

/-! ## Runs -/

/-- A run whose first step answers a next state goes on from that state. -/
theorem run_succ_next (M : Host.Core) {n : Nat} {s t : M.State} (h : M.step s = .next t) :
    M.run (n + 1) s = M.run n t := by
  rw [Host.Core.run, h]

end Sys2Proof.Machine
end

