-- ==== Sys2Proof/Laws/PerInstr.lean ====
section
/-! SUPPORT. Per instruction: the encoder puts into every instruction the fixed bits its row of spec/opcode_table.json
gives (`mask` and `match` of the row, at the spec's default numbers). -/

namespace Sys2Proof.Laws

open Sys2Proof

/-- The fixed bits of a row and their values. -/
structure FixedBits where
  mask : RomWord
  value : RomWord
  deriving DecidableEq, Repr

/-- `mask` and `match` of the instruction's row of spec/opcode_table.json. -/
def fixedBits : Instr → FixedBits
  | .movRR .. => ⟨0xFF000000#32, 0x00000000#32⟩
  | .andRR .. => ⟨0xFF000000#32, 0x01000000#32⟩
  | .orRR .. => ⟨0xFF000000#32, 0x02000000#32⟩
  | .xorRR .. => ⟨0xFF000000#32, 0x03000000#32⟩
  | .addRR .. => ⟨0xFF000000#32, 0x04000000#32⟩
  | .subRR .. => ⟨0xFF000000#32, 0x05000000#32⟩
  | .addcRR .. => ⟨0xFF000000#32, 0x06000000#32⟩
  | .subbRR .. => ⟨0xFF000000#32, 0x07000000#32⟩
  | .movRI .. => ⟨0xFF000000#32, 0x08000000#32⟩
  | .andRI .. => ⟨0xFF000000#32, 0x09000000#32⟩
  | .orRI .. => ⟨0xFF000000#32, 0x0A000000#32⟩
  | .xorRI .. => ⟨0xFF000000#32, 0x0B000000#32⟩
  | .addRI .. => ⟨0xFF000000#32, 0x0C000000#32⟩
  | .subRI .. => ⟨0xFF000000#32, 0x0D000000#32⟩
  | .addcRI .. => ⟨0xFF000000#32, 0x0E000000#32⟩
  | .subbRI .. => ⟨0xFF000000#32, 0x0F000000#32⟩
  | .movRD .. => ⟨0xFF000000#32, 0x40000000#32⟩
  | .andRD .. => ⟨0xFF000000#32, 0x41000000#32⟩
  | .orRD .. => ⟨0xFF000000#32, 0x42000000#32⟩
  | .xorRD .. => ⟨0xFF000000#32, 0x43000000#32⟩
  | .addRD .. => ⟨0xFF000000#32, 0x44000000#32⟩
  | .subRD .. => ⟨0xFF000000#32, 0x45000000#32⟩
  | .addcRD .. => ⟨0xFF000000#32, 0x46000000#32⟩
  | .subbRD .. => ⟨0xFF000000#32, 0x47000000#32⟩
  | .movRN .. => ⟨0xFF000000#32, 0x48000000#32⟩
  | .andRN .. => ⟨0xFF000000#32, 0x49000000#32⟩
  | .orRN .. => ⟨0xFF000000#32, 0x4A000000#32⟩
  | .xorRN .. => ⟨0xFF000000#32, 0x4B000000#32⟩
  | .addRN .. => ⟨0xFF000000#32, 0x4C000000#32⟩
  | .subRN .. => ⟨0xFF000000#32, 0x4D000000#32⟩
  | .addcRN .. => ⟨0xFF000000#32, 0x4E000000#32⟩
  | .subbRN .. => ⟨0xFF000000#32, 0x4F000000#32⟩
  | .movRX .. => ⟨0xF7000000#32, 0x50000000#32⟩
  | .andRX .. => ⟨0xF7000000#32, 0x51000000#32⟩
  | .orRX .. => ⟨0xF7000000#32, 0x52000000#32⟩
  | .xorRX .. => ⟨0xF7000000#32, 0x53000000#32⟩
  | .addRX .. => ⟨0xF7000000#32, 0x54000000#32⟩
  | .subRX .. => ⟨0xF7000000#32, 0x55000000#32⟩
  | .addcRX .. => ⟨0xF7000000#32, 0x56000000#32⟩
  | .subbRX .. => ⟨0xF7000000#32, 0x57000000#32⟩
  | .movMD .. => ⟨0xFF000000#32, 0x60000000#32⟩
  | .andMD .. => ⟨0xFF000000#32, 0x61000000#32⟩
  | .orMD .. => ⟨0xFF000000#32, 0x62000000#32⟩
  | .xorMD .. => ⟨0xFF000000#32, 0x63000000#32⟩
  | .addMD .. => ⟨0xFF000000#32, 0x64000000#32⟩
  | .subMD .. => ⟨0xFF000000#32, 0x65000000#32⟩
  | .addcMD .. => ⟨0xFF000000#32, 0x66000000#32⟩
  | .subbMD .. => ⟨0xFF000000#32, 0x67000000#32⟩
  | .movMN .. => ⟨0xFF000000#32, 0x68000000#32⟩
  | .andMN .. => ⟨0xFF000000#32, 0x69000000#32⟩
  | .orMN .. => ⟨0xFF000000#32, 0x6A000000#32⟩
  | .xorMN .. => ⟨0xFF000000#32, 0x6B000000#32⟩
  | .addMN .. => ⟨0xFF000000#32, 0x6C000000#32⟩
  | .subMN .. => ⟨0xFF000000#32, 0x6D000000#32⟩
  | .addcMN .. => ⟨0xFF000000#32, 0x6E000000#32⟩
  | .subbMN .. => ⟨0xFF000000#32, 0x6F000000#32⟩
  | .movMX .. => ⟨0xF7000000#32, 0x70000000#32⟩
  | .andMX .. => ⟨0xF7000000#32, 0x71000000#32⟩
  | .orMX .. => ⟨0xF7000000#32, 0x72000000#32⟩
  | .xorMX .. => ⟨0xF7000000#32, 0x73000000#32⟩
  | .addMX .. => ⟨0xF7000000#32, 0x74000000#32⟩
  | .subMX .. => ⟨0xF7000000#32, 0x75000000#32⟩
  | .addcMX .. => ⟨0xF7000000#32, 0x76000000#32⟩
  | .subbMX .. => ⟨0xF7000000#32, 0x77000000#32⟩
  | .sll .. => ⟨0xF0000000#32, 0x10000000#32⟩
  | .srl .. => ⟨0xF0000000#32, 0x20000000#32⟩
  | .sra .. => ⟨0xF0000000#32, 0x30000000#32⟩
  | .movb .. => ⟨0xFF000000#32, 0x80000000#32⟩
  | .swap .. => ⟨0xFF000000#32, 0x81000000#32⟩
  | .peek .. => ⟨0xFE000000#32, 0x82000000#32⟩
  | .pushR .. => ⟨0xFF0F0000#32, 0x84010000#32⟩
  | .pushI .. => ⟨0xFF0F0000#32, 0x85010000#32⟩
  | .pushf => ⟨0xFF0F0000#32, 0x86010000#32⟩
  | .pop .. => ⟨0xFF0F0000#32, 0x87010000#32⟩
  | .popf => ⟨0xFF0F0000#32, 0x88010000#32⟩
  | .jmpR .. => ⟨0xFF000000#32, 0xC0000000#32⟩
  | .jzR .. => ⟨0xFF000000#32, 0xC1000000#32⟩
  | .jnzR .. => ⟨0xFF000000#32, 0xC2000000#32⟩
  | .jcR .. => ⟨0xFF000000#32, 0xC3000000#32⟩
  | .jncR .. => ⟨0xFF000000#32, 0xC4000000#32⟩
  | .jltR .. => ⟨0xFF000000#32, 0xC5000000#32⟩
  | .jleR .. => ⟨0xFF000000#32, 0xC6000000#32⟩
  | .jleuR .. => ⟨0xFF000000#32, 0xC7000000#32⟩
  | .jmpI .. => ⟨0xFF000000#32, 0xC8000000#32⟩
  | .jzI .. => ⟨0xFF000000#32, 0xC9000000#32⟩
  | .jnzI .. => ⟨0xFF000000#32, 0xCA000000#32⟩
  | .jcI .. => ⟨0xFF000000#32, 0xCB000000#32⟩
  | .jncI .. => ⟨0xFF000000#32, 0xCC000000#32⟩
  | .jltI .. => ⟨0xFF000000#32, 0xCD000000#32⟩
  | .jleI .. => ⟨0xFF000000#32, 0xCE000000#32⟩
  | .jleuI .. => ⟨0xFF000000#32, 0xCF000000#32⟩
  | .callR .. => ⟨0xFF000000#32, 0xD0000000#32⟩
  | .callI .. => ⟨0xFF0F0000#32, 0xD1010000#32⟩
  | .syscallR .. => ⟨0xFF000000#32, 0xD2000000#32⟩
  | .syscallI .. => ⟨0xFF0F0000#32, 0xD3010000#32⟩
  | .enterR .. => ⟨0xFF000000#32, 0xD4000000#32⟩
  | .enterI .. => ⟨0xFF0F0000#32, 0xD5010000#32⟩
  | .ret => ⟨0xFF0F0000#32, 0xD6010000#32⟩
  | .sysret => ⟨0xFF0F0000#32, 0xD7010000#32⟩
  | .exit => ⟨0xFF0F0000#32, 0xD8010000#32⟩

/-- The 32-bit instruction the encoder writes for `i` has the fixed bits of its row. -/
def RowFixedBits.Statement (i : Instr) : Prop :=
  joinWords (encodeOp defaultOpcodes i) (encodeArg i) &&& (fixedBits i).mask = (fixedBits i).value

/-- A mask over an instruction, nibble by nibble. -/
theorem joined_mask (p q r s a b c d : BitVec 4) (arg e : Word) :
    joinWords (packOp p q r s) arg &&& joinWords (packOp a b c d) e =
      joinWords (packOp (p &&& a) (q &&& b) (r &&& c) (s &&& d)) (arg &&& e) := by
  have h : packOp p q r s &&& packOp a b c d = packOp (p &&& a) (q &&& b) (r &&& c) (s &&& d) :=
    BitVec.and_append.trans (congrArg (· ++ (s &&& d))
      (BitVec.and_append.trans (congrArg (· ++ (r &&& c)) BitVec.and_append)))
  exact BitVec.and_append.trans (congrArg (· ++ (arg &&& e)) h)

/-- The fixed bits lie in `I[31:24]`, under the mask `a`, `b` of its two nibbles. -/
theorem high_byte_fixed (p q a b : BitVec 4) (r s : BitVec 4) (arg : Word) :
    joinWords (packOp p q r s) arg &&& joinWords (packOp a b 0#4 0#4) 0#16 =
      joinWords (packOp (p &&& a) (q &&& b) 0#4 0#4) 0#16 := by
  rw [joined_mask, BitVec.and_zero, BitVec.and_zero, BitVec.and_zero]

/-- The fixed bits lie in `I[31:24]` and `I[19:16]` (the constant 0001). -/
theorem high_byte_and_constant_fixed (p q r s : BitVec 4) (arg : Word) :
    joinWords (packOp p q r s) arg &&& 0xFF0F0000#32 = joinWords (packOp p q 0#4 s) 0#16 := by
  have h : 0xFF0F0000#32 = joinWords (packOp 0xF#4 0xF#4 0#4 0xF#4) 0#16 := by decide
  rw [h, joined_mask, BitVec.and_zero, BitVec.and_zero]
  have hf : ∀ x : BitVec 4, x &&& 0xF#4 = x := by decide
  rw [hf, hf, hf]

theorem RowFixedBits.movRR (rD rB : Reg) : RowFixedBits.Statement (.movRR rD rB) :=
  high_byte_fixed _ _ 0xF#4 0xF#4 _ _ _
theorem RowFixedBits.andRR (rD rA rB : Reg) : RowFixedBits.Statement (.andRR rD rA rB) :=
  high_byte_fixed _ _ 0xF#4 0xF#4 _ _ _
theorem RowFixedBits.orRR (rD rA rB : Reg) : RowFixedBits.Statement (.orRR rD rA rB) :=
  high_byte_fixed _ _ 0xF#4 0xF#4 _ _ _
theorem RowFixedBits.xorRR (rD rA rB : Reg) : RowFixedBits.Statement (.xorRR rD rA rB) :=
  high_byte_fixed _ _ 0xF#4 0xF#4 _ _ _
theorem RowFixedBits.addRR (rD rA rB : Reg) : RowFixedBits.Statement (.addRR rD rA rB) :=
  high_byte_fixed _ _ 0xF#4 0xF#4 _ _ _
theorem RowFixedBits.subRR (rD rA rB : Reg) : RowFixedBits.Statement (.subRR rD rA rB) :=
  high_byte_fixed _ _ 0xF#4 0xF#4 _ _ _
theorem RowFixedBits.addcRR (rD rA rB : Reg) : RowFixedBits.Statement (.addcRR rD rA rB) :=
  high_byte_fixed _ _ 0xF#4 0xF#4 _ _ _
theorem RowFixedBits.subbRR (rD rA rB : Reg) : RowFixedBits.Statement (.subbRR rD rA rB) :=
  high_byte_fixed _ _ 0xF#4 0xF#4 _ _ _
theorem RowFixedBits.movRI (rD : Reg) (imm : Word) : RowFixedBits.Statement (.movRI rD imm) :=
  high_byte_fixed _ _ 0xF#4 0xF#4 _ _ _
theorem RowFixedBits.andRI (rD rA : Reg) (imm : Word) : RowFixedBits.Statement (.andRI rD rA imm) :=
  high_byte_fixed _ _ 0xF#4 0xF#4 _ _ _
theorem RowFixedBits.orRI (rD rA : Reg) (imm : Word) : RowFixedBits.Statement (.orRI rD rA imm) :=
  high_byte_fixed _ _ 0xF#4 0xF#4 _ _ _
theorem RowFixedBits.xorRI (rD rA : Reg) (imm : Word) : RowFixedBits.Statement (.xorRI rD rA imm) :=
  high_byte_fixed _ _ 0xF#4 0xF#4 _ _ _
theorem RowFixedBits.addRI (rD rA : Reg) (imm : Word) : RowFixedBits.Statement (.addRI rD rA imm) :=
  high_byte_fixed _ _ 0xF#4 0xF#4 _ _ _
theorem RowFixedBits.subRI (rD rA : Reg) (imm : Word) : RowFixedBits.Statement (.subRI rD rA imm) :=
  high_byte_fixed _ _ 0xF#4 0xF#4 _ _ _
theorem RowFixedBits.addcRI (rD rA : Reg) (imm : Word) : RowFixedBits.Statement (.addcRI rD rA imm) :=
  high_byte_fixed _ _ 0xF#4 0xF#4 _ _ _
theorem RowFixedBits.subbRI (rD rA : Reg) (imm : Word) : RowFixedBits.Statement (.subbRI rD rA imm) :=
  high_byte_fixed _ _ 0xF#4 0xF#4 _ _ _
theorem RowFixedBits.movRD (rD : Reg) (addr : Word) : RowFixedBits.Statement (.movRD rD addr) :=
  high_byte_fixed _ _ 0xF#4 0xF#4 _ _ _
theorem RowFixedBits.andRD (rD rA : Reg) (addr : Word) : RowFixedBits.Statement (.andRD rD rA addr) :=
  high_byte_fixed _ _ 0xF#4 0xF#4 _ _ _
theorem RowFixedBits.orRD (rD rA : Reg) (addr : Word) : RowFixedBits.Statement (.orRD rD rA addr) :=
  high_byte_fixed _ _ 0xF#4 0xF#4 _ _ _
theorem RowFixedBits.xorRD (rD rA : Reg) (addr : Word) : RowFixedBits.Statement (.xorRD rD rA addr) :=
  high_byte_fixed _ _ 0xF#4 0xF#4 _ _ _
theorem RowFixedBits.addRD (rD rA : Reg) (addr : Word) : RowFixedBits.Statement (.addRD rD rA addr) :=
  high_byte_fixed _ _ 0xF#4 0xF#4 _ _ _
theorem RowFixedBits.subRD (rD rA : Reg) (addr : Word) : RowFixedBits.Statement (.subRD rD rA addr) :=
  high_byte_fixed _ _ 0xF#4 0xF#4 _ _ _
theorem RowFixedBits.addcRD (rD rA : Reg) (addr : Word) : RowFixedBits.Statement (.addcRD rD rA addr) :=
  high_byte_fixed _ _ 0xF#4 0xF#4 _ _ _
theorem RowFixedBits.subbRD (rD rA : Reg) (addr : Word) : RowFixedBits.Statement (.subbRD rD rA addr) :=
  high_byte_fixed _ _ 0xF#4 0xF#4 _ _ _
theorem RowFixedBits.movRN (rD rB : Reg) : RowFixedBits.Statement (.movRN rD rB) :=
  high_byte_fixed _ _ 0xF#4 0xF#4 _ _ _
theorem RowFixedBits.andRN (rD rA rB : Reg) : RowFixedBits.Statement (.andRN rD rA rB) :=
  high_byte_fixed _ _ 0xF#4 0xF#4 _ _ _
theorem RowFixedBits.orRN (rD rA rB : Reg) : RowFixedBits.Statement (.orRN rD rA rB) :=
  high_byte_fixed _ _ 0xF#4 0xF#4 _ _ _
theorem RowFixedBits.xorRN (rD rA rB : Reg) : RowFixedBits.Statement (.xorRN rD rA rB) :=
  high_byte_fixed _ _ 0xF#4 0xF#4 _ _ _
theorem RowFixedBits.addRN (rD rA rB : Reg) : RowFixedBits.Statement (.addRN rD rA rB) :=
  high_byte_fixed _ _ 0xF#4 0xF#4 _ _ _
theorem RowFixedBits.subRN (rD rA rB : Reg) : RowFixedBits.Statement (.subRN rD rA rB) :=
  high_byte_fixed _ _ 0xF#4 0xF#4 _ _ _
theorem RowFixedBits.addcRN (rD rA rB : Reg) : RowFixedBits.Statement (.addcRN rD rA rB) :=
  high_byte_fixed _ _ 0xF#4 0xF#4 _ _ _
theorem RowFixedBits.subbRN (rD rA rB : Reg) : RowFixedBits.Statement (.subbRN rD rA rB) :=
  high_byte_fixed _ _ 0xF#4 0xF#4 _ _ _
theorem RowFixedBits.movRX (rD rA : Reg) (imm : Word) : RowFixedBits.Statement (.movRX rD rA imm) :=
  high_byte_fixed _ _ 0xF#4 0x7#4 _ _ _
theorem RowFixedBits.andRX (rD rA : Reg) (imm : Word) : RowFixedBits.Statement (.andRX rD rA imm) :=
  high_byte_fixed _ _ 0xF#4 0x7#4 _ _ _
theorem RowFixedBits.orRX (rD rA : Reg) (imm : Word) : RowFixedBits.Statement (.orRX rD rA imm) :=
  high_byte_fixed _ _ 0xF#4 0x7#4 _ _ _
theorem RowFixedBits.xorRX (rD rA : Reg) (imm : Word) : RowFixedBits.Statement (.xorRX rD rA imm) :=
  high_byte_fixed _ _ 0xF#4 0x7#4 _ _ _
theorem RowFixedBits.addRX (rD rA : Reg) (imm : Word) : RowFixedBits.Statement (.addRX rD rA imm) :=
  high_byte_fixed _ _ 0xF#4 0x7#4 _ _ _
theorem RowFixedBits.subRX (rD rA : Reg) (imm : Word) : RowFixedBits.Statement (.subRX rD rA imm) :=
  high_byte_fixed _ _ 0xF#4 0x7#4 _ _ _
theorem RowFixedBits.addcRX (rD rA : Reg) (imm : Word) : RowFixedBits.Statement (.addcRX rD rA imm) :=
  high_byte_fixed _ _ 0xF#4 0x7#4 _ _ _
theorem RowFixedBits.subbRX (rD rA : Reg) (imm : Word) : RowFixedBits.Statement (.subbRX rD rA imm) :=
  high_byte_fixed _ _ 0xF#4 0x7#4 _ _ _
theorem RowFixedBits.movMD (addr : Word) (rA : Reg) : RowFixedBits.Statement (.movMD addr rA) :=
  high_byte_fixed _ _ 0xF#4 0xF#4 _ _ _
theorem RowFixedBits.andMD (addr : Word) (rA : Reg) : RowFixedBits.Statement (.andMD addr rA) :=
  high_byte_fixed _ _ 0xF#4 0xF#4 _ _ _
theorem RowFixedBits.orMD (addr : Word) (rA : Reg) : RowFixedBits.Statement (.orMD addr rA) :=
  high_byte_fixed _ _ 0xF#4 0xF#4 _ _ _
theorem RowFixedBits.xorMD (addr : Word) (rA : Reg) : RowFixedBits.Statement (.xorMD addr rA) :=
  high_byte_fixed _ _ 0xF#4 0xF#4 _ _ _
theorem RowFixedBits.addMD (addr : Word) (rA : Reg) : RowFixedBits.Statement (.addMD addr rA) :=
  high_byte_fixed _ _ 0xF#4 0xF#4 _ _ _
theorem RowFixedBits.subMD (addr : Word) (rA : Reg) : RowFixedBits.Statement (.subMD addr rA) :=
  high_byte_fixed _ _ 0xF#4 0xF#4 _ _ _
theorem RowFixedBits.addcMD (addr : Word) (rA : Reg) : RowFixedBits.Statement (.addcMD addr rA) :=
  high_byte_fixed _ _ 0xF#4 0xF#4 _ _ _
theorem RowFixedBits.subbMD (addr : Word) (rA : Reg) : RowFixedBits.Statement (.subbMD addr rA) :=
  high_byte_fixed _ _ 0xF#4 0xF#4 _ _ _
theorem RowFixedBits.movMN (rA rB : Reg) : RowFixedBits.Statement (.movMN rA rB) :=
  high_byte_fixed _ _ 0xF#4 0xF#4 _ _ _
theorem RowFixedBits.andMN (rA rB : Reg) : RowFixedBits.Statement (.andMN rA rB) :=
  high_byte_fixed _ _ 0xF#4 0xF#4 _ _ _
theorem RowFixedBits.orMN (rA rB : Reg) : RowFixedBits.Statement (.orMN rA rB) :=
  high_byte_fixed _ _ 0xF#4 0xF#4 _ _ _
theorem RowFixedBits.xorMN (rA rB : Reg) : RowFixedBits.Statement (.xorMN rA rB) :=
  high_byte_fixed _ _ 0xF#4 0xF#4 _ _ _
theorem RowFixedBits.addMN (rA rB : Reg) : RowFixedBits.Statement (.addMN rA rB) :=
  high_byte_fixed _ _ 0xF#4 0xF#4 _ _ _
theorem RowFixedBits.subMN (rA rB : Reg) : RowFixedBits.Statement (.subMN rA rB) :=
  high_byte_fixed _ _ 0xF#4 0xF#4 _ _ _
theorem RowFixedBits.addcMN (rA rB : Reg) : RowFixedBits.Statement (.addcMN rA rB) :=
  high_byte_fixed _ _ 0xF#4 0xF#4 _ _ _
theorem RowFixedBits.subbMN (rA rB : Reg) : RowFixedBits.Statement (.subbMN rA rB) :=
  high_byte_fixed _ _ 0xF#4 0xF#4 _ _ _
theorem RowFixedBits.movMX (rA : Reg) (imm : Word) (rB : Reg) : RowFixedBits.Statement (.movMX rA imm rB) :=
  high_byte_fixed _ _ 0xF#4 0x7#4 _ _ _
theorem RowFixedBits.andMX (rA : Reg) (imm : Word) (rB : Reg) : RowFixedBits.Statement (.andMX rA imm rB) :=
  high_byte_fixed _ _ 0xF#4 0x7#4 _ _ _
theorem RowFixedBits.orMX (rA : Reg) (imm : Word) (rB : Reg) : RowFixedBits.Statement (.orMX rA imm rB) :=
  high_byte_fixed _ _ 0xF#4 0x7#4 _ _ _
theorem RowFixedBits.xorMX (rA : Reg) (imm : Word) (rB : Reg) : RowFixedBits.Statement (.xorMX rA imm rB) :=
  high_byte_fixed _ _ 0xF#4 0x7#4 _ _ _
theorem RowFixedBits.addMX (rA : Reg) (imm : Word) (rB : Reg) : RowFixedBits.Statement (.addMX rA imm rB) :=
  high_byte_fixed _ _ 0xF#4 0x7#4 _ _ _
theorem RowFixedBits.subMX (rA : Reg) (imm : Word) (rB : Reg) : RowFixedBits.Statement (.subMX rA imm rB) :=
  high_byte_fixed _ _ 0xF#4 0x7#4 _ _ _
theorem RowFixedBits.addcMX (rA : Reg) (imm : Word) (rB : Reg) : RowFixedBits.Statement (.addcMX rA imm rB) :=
  high_byte_fixed _ _ 0xF#4 0x7#4 _ _ _
theorem RowFixedBits.subbMX (rA : Reg) (imm : Word) (rB : Reg) : RowFixedBits.Statement (.subbMX rA imm rB) :=
  high_byte_fixed _ _ 0xF#4 0x7#4 _ _ _
theorem RowFixedBits.sll (rD rA : Reg) (n : BitVec 4) : RowFixedBits.Statement (.sll rD rA n) := by
  have h := high_byte_fixed 0x1#4 n 0xF#4 0#4 (regBits rD) (regBits rA) 0#16
  rw [BitVec.and_zero] at h
  exact h
theorem RowFixedBits.srl (rD rA : Reg) (n : BitVec 4) : RowFixedBits.Statement (.srl rD rA n) := by
  have h := high_byte_fixed 0x2#4 n 0xF#4 0#4 (regBits rD) (regBits rA) 0#16
  rw [BitVec.and_zero] at h
  exact h
theorem RowFixedBits.sra (rD rA : Reg) (n : BitVec 4) : RowFixedBits.Statement (.sra rD rA n) := by
  have h := high_byte_fixed 0x3#4 n 0xF#4 0#4 (regBits rD) (regBits rA) 0#16
  rw [BitVec.and_zero] at h
  exact h
theorem RowFixedBits.movb (rD rA : Reg) (imm : Word) : RowFixedBits.Statement (.movb rD rA imm) :=
  high_byte_fixed _ _ 0xF#4 0xF#4 _ _ _
theorem RowFixedBits.swap (rD rA : Reg) (imm : Word) : RowFixedBits.Statement (.swap rD rA imm) :=
  high_byte_fixed _ _ 0xF#4 0xF#4 _ _ _
theorem RowFixedBits.peek (rD rA : Reg) (imm : Word) (h : RomHalf) : RowFixedBits.Statement (.peek rD rA imm h) := by
  cases h
  · exact high_byte_fixed 0x8#4 0x3#4 0xF#4 0xE#4 _ _ _
  · exact high_byte_fixed 0x8#4 0x2#4 0xF#4 0xE#4 _ _ _
theorem RowFixedBits.pushR (rB : Reg) : RowFixedBits.Statement (.pushR rB) :=
  high_byte_and_constant_fixed _ _ _ _ _
theorem RowFixedBits.pushI (imm : Word) : RowFixedBits.Statement (.pushI imm) :=
  high_byte_and_constant_fixed _ _ _ _ _
theorem RowFixedBits.pushf : RowFixedBits.Statement (.pushf) :=
  high_byte_and_constant_fixed _ _ _ _ _
theorem RowFixedBits.pop (rD : Reg) : RowFixedBits.Statement (.pop rD) :=
  high_byte_and_constant_fixed _ _ _ _ _
theorem RowFixedBits.popf : RowFixedBits.Statement (.popf) :=
  high_byte_and_constant_fixed _ _ _ _ _
theorem RowFixedBits.jmpR (rA : Reg) : RowFixedBits.Statement (.jmpR rA) :=
  high_byte_fixed _ _ 0xF#4 0xF#4 _ _ _
theorem RowFixedBits.jzR (rA : Reg) : RowFixedBits.Statement (.jzR rA) :=
  high_byte_fixed _ _ 0xF#4 0xF#4 _ _ _
theorem RowFixedBits.jnzR (rA : Reg) : RowFixedBits.Statement (.jnzR rA) :=
  high_byte_fixed _ _ 0xF#4 0xF#4 _ _ _
theorem RowFixedBits.jcR (rA : Reg) : RowFixedBits.Statement (.jcR rA) :=
  high_byte_fixed _ _ 0xF#4 0xF#4 _ _ _
theorem RowFixedBits.jncR (rA : Reg) : RowFixedBits.Statement (.jncR rA) :=
  high_byte_fixed _ _ 0xF#4 0xF#4 _ _ _
theorem RowFixedBits.jltR (rA : Reg) : RowFixedBits.Statement (.jltR rA) :=
  high_byte_fixed _ _ 0xF#4 0xF#4 _ _ _
theorem RowFixedBits.jleR (rA : Reg) : RowFixedBits.Statement (.jleR rA) :=
  high_byte_fixed _ _ 0xF#4 0xF#4 _ _ _
theorem RowFixedBits.jleuR (rA : Reg) : RowFixedBits.Statement (.jleuR rA) :=
  high_byte_fixed _ _ 0xF#4 0xF#4 _ _ _
theorem RowFixedBits.jmpI (addr : Word) : RowFixedBits.Statement (.jmpI addr) :=
  high_byte_fixed _ _ 0xF#4 0xF#4 _ _ _
theorem RowFixedBits.jzI (addr : Word) : RowFixedBits.Statement (.jzI addr) :=
  high_byte_fixed _ _ 0xF#4 0xF#4 _ _ _
theorem RowFixedBits.jnzI (addr : Word) : RowFixedBits.Statement (.jnzI addr) :=
  high_byte_fixed _ _ 0xF#4 0xF#4 _ _ _
theorem RowFixedBits.jcI (addr : Word) : RowFixedBits.Statement (.jcI addr) :=
  high_byte_fixed _ _ 0xF#4 0xF#4 _ _ _
theorem RowFixedBits.jncI (addr : Word) : RowFixedBits.Statement (.jncI addr) :=
  high_byte_fixed _ _ 0xF#4 0xF#4 _ _ _
theorem RowFixedBits.jltI (addr : Word) : RowFixedBits.Statement (.jltI addr) :=
  high_byte_fixed _ _ 0xF#4 0xF#4 _ _ _
theorem RowFixedBits.jleI (addr : Word) : RowFixedBits.Statement (.jleI addr) :=
  high_byte_fixed _ _ 0xF#4 0xF#4 _ _ _
theorem RowFixedBits.jleuI (addr : Word) : RowFixedBits.Statement (.jleuI addr) :=
  high_byte_fixed _ _ 0xF#4 0xF#4 _ _ _
theorem RowFixedBits.callR (rA : Reg) : RowFixedBits.Statement (.callR rA) :=
  high_byte_fixed _ _ 0xF#4 0xF#4 _ _ _
theorem RowFixedBits.callI (addr : Word) : RowFixedBits.Statement (.callI addr) :=
  high_byte_and_constant_fixed _ _ _ _ _
theorem RowFixedBits.syscallR (rA : Reg) : RowFixedBits.Statement (.syscallR rA) :=
  high_byte_fixed _ _ 0xF#4 0xF#4 _ _ _
theorem RowFixedBits.syscallI (addr : Word) : RowFixedBits.Statement (.syscallI addr) :=
  high_byte_and_constant_fixed _ _ _ _ _
theorem RowFixedBits.enterR (rA : Reg) : RowFixedBits.Statement (.enterR rA) :=
  high_byte_fixed _ _ 0xF#4 0xF#4 _ _ _
theorem RowFixedBits.enterI (addr : Word) : RowFixedBits.Statement (.enterI addr) :=
  high_byte_and_constant_fixed _ _ _ _ _
theorem RowFixedBits.ret : RowFixedBits.Statement (.ret) :=
  high_byte_and_constant_fixed _ _ _ _ _
theorem RowFixedBits.sysret : RowFixedBits.Statement (.sysret) :=
  high_byte_and_constant_fixed _ _ _ _ _
theorem RowFixedBits.exit : RowFixedBits.Statement (.exit) :=
  high_byte_and_constant_fixed _ _ _ _ _

end Sys2Proof.Laws
end

