-- ==== Sys2Proof/Tests/Slice0.lean ====
section
/-! SUPPORT. The model's own tests: the five ill-formed terms, one word of every constructor written out from the formats of
R62, the test vectors of `95_test_vectors.md` part 2 (each named by its row there), and for every statement with hypotheses
a concrete state and operands that meet them. Expected results come from the spec, none from the model. -/

namespace Sys2Proof.Tests

open Sys2Proof.Machine

/-! ## Well-formedness: each check refuses an ill-formed term -/

theorem test_illFormed_pushSp : (Instr.pushR 1).illFormed? = some .pushSp := by decide
theorem test_illFormed_popSp : (Instr.pop 1).illFormed? = some .popSp := by decide
theorem test_illFormed_callSp : (Instr.callR 1).illFormed? = some .callSp := by decide
theorem test_illFormed_syscallSp : (Instr.syscallR 1).illFormed? = some .syscallSp := by decide
theorem test_illFormed_enterSp : (Instr.enterR 1).illFormed? = some .enterSp := by decide
theorem test_wellFormed_jmpSp : (Instr.jmpR 1).wellFormed = true := by decide

/-! ## Decoding: one word of every constructor, from the formats of R62 and the default numbers of R67, R68, R71 -/

/-- `00000FFFDDDDAAAA XXXXXXXXXXXXBBBB` -/
theorem test_decode_ALU_RR :
    decode 0x0040 0x0006 = .ok (.movRR 4 6) ∧
    decode 0x0145 0x0006 = .ok (.andRR 4 5 6) ∧
    decode 0x0245 0x0006 = .ok (.orRR 4 5 6) ∧
    decode 0x0345 0x0006 = .ok (.xorRR 4 5 6) ∧
    decode 0x0445 0x0006 = .ok (.addRR 4 5 6) ∧
    decode 0x0545 0x0006 = .ok (.subRR 4 5 6) ∧
    decode 0x0645 0x0006 = .ok (.addcRR 4 5 6) ∧
    decode 0x0745 0x0006 = .ok (.subbRR 4 5 6) := by
  decide

/-- `00001FFFDDDDAAAA IIIIIIIIIIIIIIII` -/
theorem test_decode_ALU_RI :
    decode 0x0840 0x1234 = .ok (.movRI 4 0x1234) ∧
    decode 0x0945 0x1234 = .ok (.andRI 4 5 0x1234) ∧
    decode 0x0A45 0x1234 = .ok (.orRI 4 5 0x1234) ∧
    decode 0x0B45 0x1234 = .ok (.xorRI 4 5 0x1234) ∧
    decode 0x0C45 0x1234 = .ok (.addRI 4 5 0x1234) ∧
    decode 0x0D45 0x1234 = .ok (.subRI 4 5 0x1234) ∧
    decode 0x0E45 0x1234 = .ok (.addcRI 4 5 0x1234) ∧
    decode 0x0F45 0x1234 = .ok (.subbRI 4 5 0x1234) := by
  decide

/-- `01000FFFDDDDAAAA @@@@@@@@@@@@@@@@` -/
theorem test_decode_ALU_RD :
    decode 0x4040 0x007B = .ok (.movRD 4 0x007B) ∧
    decode 0x4145 0x007B = .ok (.andRD 4 5 0x007B) ∧
    decode 0x4245 0x007B = .ok (.orRD 4 5 0x007B) ∧
    decode 0x4345 0x007B = .ok (.xorRD 4 5 0x007B) ∧
    decode 0x4445 0x007B = .ok (.addRD 4 5 0x007B) ∧
    decode 0x4545 0x007B = .ok (.subRD 4 5 0x007B) ∧
    decode 0x4645 0x007B = .ok (.addcRD 4 5 0x007B) ∧
    decode 0x4745 0x007B = .ok (.subbRD 4 5 0x007B) := by
  decide

/-- `01001FFFDDDDAAAA XXXXXXXXXXXXBBBB` -/
theorem test_decode_ALU_RN :
    decode 0x4840 0x0006 = .ok (.movRN 4 6) ∧
    decode 0x4945 0x0006 = .ok (.andRN 4 5 6) ∧
    decode 0x4A45 0x0006 = .ok (.orRN 4 5 6) ∧
    decode 0x4B45 0x0006 = .ok (.xorRN 4 5 6) ∧
    decode 0x4C45 0x0006 = .ok (.addRN 4 5 6) ∧
    decode 0x4D45 0x0006 = .ok (.subRN 4 5 6) ∧
    decode 0x4E45 0x0006 = .ok (.addcRN 4 5 6) ∧
    decode 0x4F45 0x0006 = .ok (.subbRN 4 5 6) := by
  decide

/-- `0101XFFFDDDDAAAA IIIIIIIIIIIIIIII` -/
theorem test_decode_ALU_RX :
    decode 0x5045 0x000A = .ok (.movRX 4 5 0x000A) ∧
    decode 0x5145 0x000A = .ok (.andRX 4 5 0x000A) ∧
    decode 0x5245 0x000A = .ok (.orRX 4 5 0x000A) ∧
    decode 0x5345 0x000A = .ok (.xorRX 4 5 0x000A) ∧
    decode 0x5445 0x000A = .ok (.addRX 4 5 0x000A) ∧
    decode 0x5545 0x000A = .ok (.subRX 4 5 0x000A) ∧
    decode 0x5645 0x000A = .ok (.addcRX 4 5 0x000A) ∧
    decode 0x5745 0x000A = .ok (.subbRX 4 5 0x000A) := by
  decide

/-- `01100FFFXXXXAAAA @@@@@@@@@@@@@@@@` -/
theorem test_decode_ALU_MD :
    decode 0x6005 0x2000 = .ok (.movMD 0x2000 5) ∧
    decode 0x6105 0x2000 = .ok (.andMD 0x2000 5) ∧
    decode 0x6205 0x2000 = .ok (.orMD 0x2000 5) ∧
    decode 0x6305 0x2000 = .ok (.xorMD 0x2000 5) ∧
    decode 0x6405 0x2000 = .ok (.addMD 0x2000 5) ∧
    decode 0x6505 0x2000 = .ok (.subMD 0x2000 5) ∧
    decode 0x6605 0x2000 = .ok (.addcMD 0x2000 5) ∧
    decode 0x6705 0x2000 = .ok (.subbMD 0x2000 5) := by
  decide

/-- `01101FFFXXXXAAAA XXXXXXXXXXXXBBBB` -/
theorem test_decode_ALU_MN :
    decode 0x6805 0x0006 = .ok (.movMN 5 6) ∧
    decode 0x6905 0x0006 = .ok (.andMN 5 6) ∧
    decode 0x6A05 0x0006 = .ok (.orMN 5 6) ∧
    decode 0x6B05 0x0006 = .ok (.xorMN 5 6) ∧
    decode 0x6C05 0x0006 = .ok (.addMN 5 6) ∧
    decode 0x6D05 0x0006 = .ok (.subMN 5 6) ∧
    decode 0x6E05 0x0006 = .ok (.addcMN 5 6) ∧
    decode 0x6F05 0x0006 = .ok (.subbMN 5 6) := by
  decide

/-- `0111XFFFBBBBAAAA IIIIIIIIIIIIIIII` -/
theorem test_decode_ALU_MX :
    decode 0x7065 0x0002 = .ok (.movMX 5 2 6) ∧
    decode 0x7165 0x0002 = .ok (.andMX 5 2 6) ∧
    decode 0x7265 0x0002 = .ok (.orMX 5 2 6) ∧
    decode 0x7365 0x0002 = .ok (.xorMX 5 2 6) ∧
    decode 0x7465 0x0002 = .ok (.addMX 5 2 6) ∧
    decode 0x7565 0x0002 = .ok (.subMX 5 2 6) ∧
    decode 0x7665 0x0002 = .ok (.addcMX 5 2 6) ∧
    decode 0x7765 0x0002 = .ok (.subbMX 5 2 6) := by
  decide

/-- `00TTIIIIDDDDAAAA XXXXXXXXXXXXXXXX` -/
theorem test_decode_SHIFT :
    decode 0x1445 0x0000 = .ok (.sll 4 5 4) ∧
    decode 0x2845 0x0000 = .ok (.srl 4 5 8) ∧
    decode 0x3F45 0x0000 = .ok (.sra 4 5 15) ∧
    decode 0x1045 0x0000 = .ok (.sll 4 5 0) ∧
    decode 0x1155 0xFFFF = .ok (.sll 5 5 1) := by
  decide

/-- `10000000DDDDAAAA`, `10000001DDDDAAAA`, `1000001WDDDDAAAA`, argument word the offset -/
theorem test_decode_MEM_X :
    decode 0x8045 0x0003 = .ok (.movb 4 5 3) ∧
    decode 0x8145 0x0003 = .ok (.swap 4 5 3) ∧
    decode 0x8245 0x0003 = .ok (.peek 4 5 3 .lower) ∧
    decode 0x8345 0x0003 = .ok (.peek 4 5 3 .upper) := by
  decide

/-- `10000100XXXX0001` to `10001000XXXX0001` -/
theorem test_decode_stack :
    decode 0x8401 0x0005 = .ok (.pushR 5) ∧
    decode 0x8501 0x1234 = .ok (.pushI 0x1234) ∧
    decode 0x8601 0x0000 = .ok .pushf ∧
    decode 0x8741 0x0000 = .ok (.pop 4) ∧
    decode 0x8801 0x0000 = .ok .popf := by
  decide

/-- `11000FFFXXXXAAAA XXXXXXXXXXXXXXXX` -/
theorem test_decode_JMP_R :
    decode 0xC00A 0x0000 = .ok (.jmpR 10) ∧
    decode 0xC10A 0x0000 = .ok (.jzR 10) ∧
    decode 0xC20A 0x0000 = .ok (.jnzR 10) ∧
    decode 0xC30A 0x0000 = .ok (.jcR 10) ∧
    decode 0xC40A 0x0000 = .ok (.jncR 10) ∧
    decode 0xC50A 0x0000 = .ok (.jltR 10) ∧
    decode 0xC60A 0x0000 = .ok (.jleR 10) ∧
    decode 0xC70A 0x0000 = .ok (.jleuR 10) := by
  decide

/-- `11001FFFXXXXXXXX @@@@@@@@@@@@@@@@` -/
theorem test_decode_JMP_I :
    decode 0xC800 0x0200 = .ok (.jmpI 0x0200) ∧
    decode 0xC900 0x0200 = .ok (.jzI 0x0200) ∧
    decode 0xCA00 0x0200 = .ok (.jnzI 0x0200) ∧
    decode 0xCB00 0x0200 = .ok (.jcI 0x0200) ∧
    decode 0xCC00 0x0200 = .ok (.jncI 0x0200) ∧
    decode 0xCD00 0x0200 = .ok (.jltI 0x0200) ∧
    decode 0xCE00 0x0200 = .ok (.jleI 0x0200) ∧
    decode 0xCF00 0x0200 = .ok (.jleuI 0x0200) := by
  decide

/-- `CALL_R`, `CALL_I`: bytes D0 to D5 -/
theorem test_decode_calls :
    decode 0xD00A 0x0000 = .ok (.callR 10) ∧
    decode 0xD101 0x0300 = .ok (.callI 0x0300) ∧
    decode 0xD20A 0x0000 = .ok (.syscallR 10) ∧
    decode 0xD301 0x0300 = .ok (.syscallI 0x0300) ∧
    decode 0xD40A 0x0000 = .ok (.enterR 10) ∧
    decode 0xD501 0x0300 = .ok (.enterI 0x0300) := by
  decide

/-- `RET`: bytes D6 to D8 -/
theorem test_decode_returns :
    decode 0xD601 0x0000 = .ok .ret ∧
    decode 0xD701 0x0000 = .ok .sysret ∧
    decode 0xD801 0x0000 = .ok .exit ∧
    decode 0xD801 0xFFFF = .ok .exit ∧
    decode 0xD8F1 0x0000 = .ok .exit := by
  decide

/-- Unused bits set, rows V5, V14, M3, M10, K3, J8: the same instructions -/
theorem test_decode_unused_bits :
    decode 0x004F 0xFFF6 = .ok (.movRR 4 6) ∧
    decode 0x5D45 0xFFFF = .ok (.subRX 4 5 0xFFFF) ∧
    decode 0x60F5 0x2000 = .ok (.movMD 0x2000 5) ∧
    decode 0x7F05 0x0000 = .ok (.subbMX 5 0 0) ∧
    decode 0x84F1 0xFFF5 = .ok (.pushR 5) ∧
    decode 0xC8FF 0x0200 = .ok (.jmpI 0x0200) := by
  decide

/-- Rows X22 to X24, X41, X42: no instruction. -/
theorem test_decode_unassigned :
    decode 0x8900 0 = .error .unassignedOpcode ∧ decode 0x8901 0 = .error .unassignedOpcode ∧
    decode 0xBFFF 0xFFFF = .error .unassignedOpcode ∧ decode 0xD900 0 = .error .unassignedOpcode ∧
    decode 0xFFFF 0xFFFF = .error .unassignedOpcode := by
  decide

/-- Rows K13, K14, J26, J27, X40: the constant field is not 0001. -/
theorem test_decode_constant :
    decode 0x8400 5 = .error .constantFieldNot0001 ∧ decode 0x8803 0 = .error .constantFieldNot0001 ∧
    decode 0xD100 0x0300 = .error .constantFieldNot0001 ∧ decode 0xD600 0 = .error .constantFieldNot0001 ∧
    decode 0xD802 0 = .error .constantFieldNot0001 := by
  decide

/-- The table's numbering: bit 31 of `w` is the top bit of the opcode word. -/
theorem test_decodeTableWord :
    decodeTableWord 32 0x04450006 = some (.addRR 4 5 6) ∧ decodeTableWord 32 0x89000000 = none := by
  decide

/-! ## The ALU as functions: `95_test_vectors.md` 2.1 -/

/-- A row of 2.1 for an operation whose four flags are defined. -/
def aluRow (f : AluOp) (a b : Word) (c : Bool) (r : Word) (z c' v s : Bool) : Bool :=
  aluResult f a b c == r && aluFlags f a b ⟨false, c, false, false⟩ 0 == ⟨z, c', v, s⟩

/-- A row of 2.1 for an operation whose `C` and `V` are draws. -/
def logicRow (f : AluOp) (a b r : Word) (z s : Bool) : Bool :=
  aluResult f a b false == r && (aluFlags f a b ⟨false, false, false, false⟩ 0).z == z &&
    (aluFlags f a b ⟨false, false, false, false⟩ 0).s == s

theorem test_alu_add :
    aluRow .add 0x0001 0x0002 false 0x0003 false false false false = true ∧
    aluRow .add 0x0000 0x0000 false 0x0000 true false false false = true ∧
    aluRow .add 0xFFFF 0x0001 false 0x0000 true true false false = true ∧
    aluRow .add 0x7FFF 0x0001 false 0x8000 false false true true = true ∧
    aluRow .add 0x8000 0x8000 false 0x0000 true true true false = true ∧
    aluRow .add 0x8000 0xFFFF false 0x7FFF false true true false = true ∧
    aluRow .add 0xFFFF 0xFFFF false 0xFFFE false true false true = true ∧
    aluRow .add 0x0001 0x0002 true 0x0003 false false false false = true := by
  decide

theorem test_alu_sub :
    aluRow .sub 0x0005 0x0005 false 0x0000 true true false false = true ∧
    aluRow .sub 0x0005 0x0003 false 0x0002 false true false false = true ∧
    aluRow .sub 0x0003 0x0005 false 0xFFFE false false false true = true ∧
    aluRow .sub 0x0000 0x0001 false 0xFFFF false false false true = true ∧
    aluRow .sub 0x8000 0x0001 false 0x7FFF false true true false = true ∧
    aluRow .sub 0x7FFF 0xFFFF false 0x8000 false false true true = true ∧
    aluRow .sub 0x0000 0x8000 false 0x8000 false false true true = true ∧
    aluRow .sub 0xFFFF 0x0000 false 0xFFFF false true false true = true := by
  decide

theorem test_alu_addc :
    aluRow .addc 0x0001 0x0002 false 0x0003 false false false false = true ∧
    aluRow .addc 0x0001 0x0002 true 0x0004 false false false false = true ∧
    aluRow .addc 0xFFFF 0x0000 true 0x0000 true true false false = true ∧
    aluRow .addc 0x7FFF 0x0000 true 0x8000 false false true true = true ∧
    aluRow .addc 0xFFFF 0xFFFF true 0xFFFF false true false true = true ∧
    aluRow .addc 0x8000 0x8000 false 0x0000 true true true false = true ∧
    aluRow .addc 0x4000 0x4000 true 0x8001 false false true true = true := by
  decide

theorem test_alu_subb :
    aluRow .subb 0x0005 0x0003 true 0x0002 false true false false = true ∧
    aluRow .subb 0x0005 0x0003 false 0x0001 false true false false = true ∧
    aluRow .subb 0x0005 0x0005 false 0xFFFF false false false true = true ∧
    aluRow .subb 0x0000 0x0000 false 0xFFFF false false false true = true ∧
    aluRow .subb 0x0000 0x0000 true 0x0000 true true false false = true ∧
    aluRow .subb 0x8000 0x0000 false 0x7FFF false true true false = true ∧
    aluRow .subb 0x0000 0xFFFF false 0x0000 true false false false = true ∧
    aluRow .subb 0x0000 0xFFFF true 0x0001 false false false false = true := by
  decide

theorem test_alu_logic :
    logicRow .and 0xF0F0 0x3C3C 0x3030 false false = true ∧
    logicRow .and 0xAAAA 0x5555 0x0000 true false = true ∧
    logicRow .and 0x8000 0xFFFF 0x8000 false true = true ∧
    logicRow .or 0x00F0 0x0F00 0x0FF0 false false = true ∧
    logicRow .or 0x8000 0x0001 0x8001 false true = true ∧
    logicRow .xor 0x1234 0xFFFF 0xEDCB false true = true ∧
    logicRow .xor 0x5A5A 0x5A5A 0x0000 true false = true := by
  decide

theorem test_alu_mov : aluRow .mov 0x1111 0x0000 true 0x0000 false true false false = true := by decide

/-! ## Jump conditions over all sixteen flag states: 2.7 -/

/-- A row of 2.7: the flags `Z C V S`, then which of `jmp jz jnz jc jnc jlt jle jleu` is taken. -/
def condRow (z c v s : Bool) (taken : List Bool) : Bool :=
  Cond.all.map (fun j => condHolds j ⟨z, c, v, s⟩) == taken

theorem test_conditions :
    condRow false false false false [true, false, true, false, true, false, false, true] = true ∧
    condRow false false false true [true, false, true, false, true, true, true, true] = true ∧
    condRow false false true false [true, false, true, false, true, true, true, true] = true ∧
    condRow false false true true [true, false, true, false, true, false, false, true] = true ∧
    condRow false true false false [true, false, true, true, false, false, false, false] = true ∧
    condRow false true false true [true, false, true, true, false, true, true, false] = true ∧
    condRow false true true false [true, false, true, true, false, true, true, false] = true ∧
    condRow false true true true [true, false, true, true, false, false, false, false] = true ∧
    condRow true false false false [true, true, false, false, true, false, true, true] = true ∧
    condRow true false false true [true, true, false, false, true, true, true, true] = true ∧
    condRow true false true false [true, true, false, false, true, true, true, true] = true ∧
    condRow true false true true [true, true, false, false, true, false, true, true] = true ∧
    condRow true true false false [true, true, false, true, false, false, true, true] = true ∧
    condRow true true false true [true, true, false, true, false, true, true, true] = true ∧
    condRow true true true false [true, true, false, true, false, true, true, true] = true ∧
    condRow true true true true [true, true, false, true, false, false, true, true] = true := by
  decide

/-! ## One step on small states: 2.2 to 2.6, 2.9, 2.11 -/

/-- A state with the registers, flags and RAM words listed; ROM holds 0xCAFE0123 at 0x0020. -/
def small (ms : MemSpace) (pc : Word) (regs : List (Reg × Word)) (F : Flags) (ram : List (Nat × Word)) : State where
  regs := regs.foldl (fun v p => writeReg v p.1 p.2) (Vector.replicate 16 0)
  pc := pc
  flags := F
  ms := ms
  ram := ram
  rom := [(0x0020, 0xCAFE0123)]
  ramMap := []
  draws := 0

/-- `Z C V S` all 0. -/
def F0 : Flags := ⟨false, false, false, false⟩

/-- Only `C` set. -/
def FC : Flags := ⟨false, true, false, false⟩

/-- `Z` and `C` set. -/
def FZC : Flags := ⟨true, true, false, false⟩

/-- One step that runs the 32-bit word `I`, placed at `pc`, ends in a next state for which `p` holds. -/
def runs (I : Nat) (s : State) (p : State → Bool) : Bool :=
  match step (s.withFetchWord 32 I) with
  | .next t => p t
  | .fault _ => false
  | .refused _ => false

/-- One step that runs the word `I` is refused for the reason `r`. -/
def refuses (I : Nat) (s : State) (r : Refusal) : Bool :=
  match step (s.withFetchWord 32 I) with
  | .next _ => false
  | .fault _ => false
  | .refused q => q == r

/-- From ROM at 0x0100, with the registers, flags and RAM words listed. -/
abbrev rom (regs : List (Reg × Word)) (F : Flags) (ram : List (Nat × Word)) : State := small .rom 0x0100 regs F ram

/-! ### Register destination: 2.2 -/

theorem test_V1_addRR :
    runs 0x04450006 (rom [(5, 0x1000), (6, 0x0234)] FZC [])
      (fun t => t.reg 4 == 0x1234 && t.flags == ⟨false, false, false, false⟩ && t.pc == 0x0101) = true := by
  decide
theorem test_V2_addRR_same :
    runs 0x04440004 (rom [(4, 0x4000)] F0 [])
      (fun t => t.reg 4 == 0x8000 && t.flags == ⟨false, false, true, true⟩) = true := by
  decide
theorem test_V3_subRR_zero :
    runs 0x05050006 (rom [(5, 3), (6, 5)] F0 [])
      (fun t => t.reg 0 == 0 && t.flags == ⟨false, false, false, true⟩) = true := by
  decide
theorem test_V4_addRR_zero :
    runs 0x04400000 (rom [(4, 0x1234)] F0 [])
      (fun t => t.reg 4 == 0 && t.flags == ⟨true, false, false, false⟩) = true := by
  decide
theorem test_V5_movRR :
    runs 0x004FFFF6 (rom [(6, 0xAA), (15, 0x5555)] ⟨true, true, true, true⟩ [])
      (fun t => t.reg 4 == 0xAA && t.flags == ⟨true, true, true, true⟩) = true := by
  decide
theorem test_V6_subRI :
    runs 0x0D450001 (rom [] F0 [])
      (fun t => t.reg 4 == 0xFFFF && t.flags == ⟨false, false, false, true⟩) = true := by
  decide
theorem test_V7_orRI :
    runs 0x0A458000 (rom [(5, 1)] F0 [])
      (fun t => t.reg 4 == 0x8001 && t.flags.z == false && t.flags.s == true) = true := by
  decide
theorem test_V8_addRD :
    runs 0x44452000 (rom [(5, 1)] F0 [(0x2000, 0xFFFF)])
      (fun t => t.reg 4 == 0 && t.flags == ⟨true, true, false, false⟩ && t.ramWord 0x2000 == 0xFFFF) = true := by
  decide
theorem test_V9_movRD_top :
    runs 0x4040FFFF (rom [] F0 [(0xFFFF, 0x0BAD)])
      (fun t => t.reg 4 == 0x0BAD) = true := by
  decide
theorem test_V10_xorRN :
    runs 0x4B450006 (rom [(5, 0xFF), (6, 0x2000)] F0 [(0x2000, 0x0F0F)])
      (fun t => t.reg 4 == 0x0FF0 && t.flags.z == false && t.flags.s == false) = true := by
  decide
theorem test_V11_movRN :
    runs 0x48400004 (rom [(4, 0x2000)] F0 [(0x2000, 0x2001)])
      (fun t => t.reg 4 == 0x2001) = true := by
  decide
theorem test_V12_addRN_zero :
    runs 0x4C450000 (rom [(5, 7)] F0 [(0, 3)])
      (fun t => t.reg 4 == 0xA && t.flags == ⟨false, false, false, false⟩) = true := by
  decide
theorem test_V13_subRX :
    runs 0x5545FFFF (rom [(4, 0x10), (5, 0x2001)] F0 [(0x2000, 1)])
      (fun t => t.reg 4 == 0xF && t.flags == ⟨false, true, false, false⟩) = true := by
  decide
theorem test_V15_addRX_same :
    runs 0x54440002 (rom [(4, 0x2000)] F0 [(0x2002, 5)])
      (fun t => t.reg 4 == 0x2005 && t.flags == ⟨false, false, false, false⟩) = true := by
  decide
theorem test_V16_addRX_zero :
    runs 0x54050002 (rom [(5, 0x2000)] FZC [(0x2002, 0x8000)])
      (fun t => t.reg 0 == 0 && t.flags == ⟨false, false, false, true⟩) = true := by
  decide
theorem test_V17_movRX : runs 0x50402002 (rom [] F0 [(0x2002, 0x7777)]) (fun t => t.reg 4 == 0x7777) = true := by decide
theorem test_V18_addcRR :
    runs 0x06450005 (rom [(5, 0x8001)] FC [])
      (fun t => t.reg 4 == 3 && t.flags == ⟨false, true, true, false⟩) = true := by
  decide
theorem test_V19_xorRI :
    runs 0x0B45FFFF (rom [(5, 0x1234)] F0 [])
      (fun t => t.reg 4 == 0xEDCB && t.flags.z == false && t.flags.s == true) = true := by
  decide
theorem test_V20_addRR_sp :
    runs 0x04110005 (rom [(1, 0x8000), (5, 0xFFFC)] F0 [])
      (fun t => t.reg 1 == 0x7FFC && t.flags == ⟨false, true, true, false⟩) = true := by
  decide

/-! ### Memory destination: 2.3 -/

theorem test_M1_addMD :
    runs 0x64052000 (rom [(5, 1)] F0 [(0x2000, 0x7FFF)])
      (fun t => t.ramWord 0x2000 == 0x8000 && t.flags == ⟨false, false, true, true⟩ && t.reg 5 == 1) = true := by
  decide
theorem test_M2_subMD :
    runs 0x65052000 (rom [(5, 3)] F0 [(0x2000, 1)])
      (fun t => t.ramWord 0x2000 == 0xFFFE && t.flags == ⟨false, false, false, true⟩) = true := by
  decide
theorem test_M3_movMD :
    runs 0x60F52000 (rom [(5, 0x4321)] FZC [])
      (fun t => t.ramWord 0x2000 == 0x4321 && t.flags == FZC) = true := by
  decide
theorem test_M4_andMN :
    runs 0x69050006 (rom [(5, 0x2000), (6, 0xFF)] F0 [(0x2000, 0xABCD)])
      (fun t => t.ramWord 0x2000 == 0xCD && t.flags.z == false && t.flags.s == false) = true := by
  decide
theorem test_M5_addMN_same :
    runs 0x6C050005 (rom [(5, 0x2000)] F0 [(0x2000, 1)])
      (fun t => t.ramWord 0x2000 == 0x2001 && t.flags == ⟨false, false, false, false⟩) = true := by
  decide
theorem test_M6_movMN_zero : runs 0x68000005 (rom [(5, 0x42)] F0 []) (fun t => t.ramWord 0 == 0x42) = true := by decide
theorem test_M7_orMX :
    runs 0x7265FFFE (rom [(5, 1), (6, 1)] F0 [(0xFFFF, 0x8000)])
      (fun t => t.ramWord 0xFFFF == 0x8001 && t.flags.z == false && t.flags.s == true) = true := by
  decide
theorem test_M8_addMX_wrap :
    runs 0x74650002 (rom [(5, 0xFFFF), (6, 1)] F0 [(1, 0xFFFF)])
      (fun t => t.ramWord 1 == 0 && t.flags == ⟨true, true, false, false⟩) = true := by
  decide
theorem test_M9_movMX_sp :
    runs 0x70510002 (rom [(1, 0x7FF0), (5, 0x77)] F0 [])
      (fun t => t.ramWord 0x7FF2 == 0x77 && t.reg 1 == 0x7FF0) = true := by
  decide
theorem test_M10_subbMX :
    runs 0x7F050000 (rom [(5, 0x2001)] F0 [(0x2001, 0)])
      (fun t => t.ramWord 0x2001 == 0xFFFF && t.flags == ⟨false, false, false, true⟩) = true := by
  decide
theorem test_M11_addcMD :
    runs 0x66002001 (rom [] FC [(0x2001, 0xFF)])
      (fun t => t.ramWord 0x2001 == 0x100 && t.flags == ⟨false, false, false, false⟩) = true := by
  decide

/-! ### Shifts: 2.4 -/

theorem test_S2_sll :
    runs 0x11450000 (rom [(5, 0x8000)] F0 [])
      (fun t => t.reg 4 == 0 && t.flags.z == true && t.flags.s == false) = true := by
  decide
theorem test_S5_sll_15 :
    runs 0x1F450000 (rom [(5, 1)] F0 [])
      (fun t => t.reg 4 == 0x8000 && t.flags.z == false && t.flags.s == true) = true := by
  decide
theorem test_S8_srl :
    runs 0x28450000 (rom [(5, 0xAB12)] F0 [])
      (fun t => t.reg 4 == 0xAB && t.flags.z == false && t.flags.s == false) = true := by
  decide
theorem test_S12_sra :
    runs 0x34450000 (rom [(5, 0xF00F)] F0 [])
      (fun t => t.reg 4 == 0xFF00 && t.flags.z == false && t.flags.s == true) = true := by
  decide
theorem test_S13_sra_15 :
    runs 0x3F450000 (rom [(5, 0x8000)] F0 [])
      (fun t => t.reg 4 == 0xFFFF && t.flags.z == false && t.flags.s == true) = true := by
  decide
theorem test_S17_sll_0 :
    runs 0x10450000 (rom [(4, 0xAAAA), (5, 0x1234)] FZC [])
      (fun t => t.reg 4 == 0xAAAA && t.flags == FZC && t.draws == 0) = true := by
  decide
theorem test_S20_srl_zero :
    runs 0x21050000 (rom [(5, 1)] F0 [])
      (fun t => t.reg 0 == 0 && t.flags.z == true && t.flags.s == false) = true := by
  decide

/-! ### `movb`, `swap`, `peek`: 2.5 -/

theorem test_B1_movb :
    runs 0x80450003 (rom [(5, 0x2000)] FZC [(0x2003, 0x127F)])
      (fun t => t.reg 4 == 0x7F && t.flags == FZC) = true := by
  decide
theorem test_B2_movb_sign :
    runs 0x80450003 (rom [(5, 0x2000)] F0 [(0x2003, 0x0080)])
      (fun t => t.reg 4 == 0xFF80) = true := by
  decide
theorem test_B8_swap :
    runs 0x81450001 (rom [(4, 0x1111), (5, 0x2000)] FZC [(0x2001, 0x2222)])
      (fun t => t.reg 4 == 0x2222 && t.ramWord 0x2001 == 0x1111 && t.flags == FZC) = true := by
  decide
theorem test_B9_swap_same :
    runs 0x81550000 (rom [(5, 0x2000)] F0 [(0x2000, 0x3000), (0x3000, 0x9999)])
      (fun t => t.reg 5 == 0x3000 && t.ramWord 0x2000 == 0x2000 && t.ramWord 0x3000 == 0x9999) = true := by
  decide
theorem test_B10_swap_zero :
    runs 0x81050000 (rom [(5, 0x2000)] F0 [(0x2000, 0x7777)])
      (fun t => t.ramWord 0x2000 == 0 && t.reg 0 == 0) = true := by
  decide
theorem test_B12_peek_upper :
    runs 0x8345FFFF (rom [(5, 0x21)] FZC [])
      (fun t => t.reg 4 == 0xCAFE && t.flags == FZC) = true := by
  decide
theorem test_B15_peek_from_RAM :
    runs 0x82400020 (small .ram 0x4000 [] F0 [(0x0020, 0x5555)])
      (fun t => t.reg 4 == 0x0123 && t.pc == 0x4002 && t.ms == .ram) = true := by
  decide

theorem test_peek_unpopulated :
    refuses 0x83400021 (rom [] F0 []) (.romUnpopulated 0x0021) = true := by decide

/-! ### Stack: 2.6 -/

theorem test_K1_pushR :
    runs 0x84010005 (rom [(1, 0x8000), (5, 0x1234)] FZC [])
      (fun t => t.reg 1 == 0x7FFF && t.ramWord 0x7FFF == 0x1234 && t.flags == FZC) = true := by
  decide
theorem test_K2_pushR_zero :
    runs 0x84010000 (rom [(1, 0x8000)] F0 [])
      (fun t => t.reg 1 == 0x7FFF && t.ramWord 0x7FFF == 0) = true := by
  decide
theorem test_K4_pushI_wrap :
    runs 0x8501BEEF (rom [] F0 [])
      (fun t => t.reg 1 == 0xFFFF && t.ramWord 0xFFFF == 0xBEEF) = true := by
  decide
theorem test_K5_pop :
    runs 0x87410000 (rom [(1, 0x7FFF)] F0 [(0x7FFF, 0x1234)])
      (fun t => t.reg 4 == 0x1234 && t.reg 1 == 0x8000 && t.ramWord 0x7FFF == 0x1234) = true := by
  decide
theorem test_K7_pop_wrap :
    runs 0x87410000 (rom [(1, 0xFFFF)] F0 [(0xFFFF, 0x42)])
      (fun t => t.reg 4 == 0x42 && t.reg 1 == 0) = true := by
  decide
theorem test_K8_pushf_sp :
    runs 0x86010000 (rom [(1, 0x8000)] FZC [])
      (fun t => t.reg 1 == 0x7FFF && t.flags == FZC && t.draws == 1) = true := by
  decide
theorem test_K9_popf_sp :
    runs 0x88010000 (rom [(1, 0x7FFF)] F0 [(0x7FFF, 0)])
      (fun t => t.reg 1 == 0x8000 && t.draws == 0) = true := by
  decide

/-- Rows K8 and K9 at one layout, `Z` at bit 15, `C` at 14, `V` at 13, `S` at 12. -/
theorem test_flags_word :
    flagsToWord ⟨15, 14, 13, 12⟩ ⟨true, false, true, false⟩ 0x5ABC = 0xAABC ∧
    wordToFlags ⟨15, 14, 13, 12⟩ 0xAABC = ⟨true, false, true, false⟩ := by
  decide

theorem test_K11_push_sp : refuses 0x84010001 (rom [] F0 []) (.reservedUseOfSp .pushSp) = true := by decide
theorem test_K12_pop_sp : refuses 0x87110000 (rom [] F0 []) (.reservedUseOfSp .popSp) = true := by decide
theorem test_K13_reserved :
    refuses 0x84000005 (rom [] F0 []) (.reservedEncoding .constantFieldNot0001) = true := by decide

/-! ### Jumps, calls and returns: 2.9 -/

theorem test_J1_jmpR :
    runs 0xC00A0000 (rom [(10, 0x0200)] F0 [])
      (fun t => t.pc == 0x0200 && t.ms == .rom) = true := by
  decide
theorem test_J2_jnzR : runs 0xC20A0000 (rom [(10, 0x0200)] FZC []) (fun t => t.pc == 0x0101) = true := by decide
theorem test_J4_jcI_RAM :
    runs 0xCB004100 (small .ram 0x4000 [] FC [])
      (fun t => t.pc == 0x4100 && t.ms == .ram) = true := by
  decide
theorem test_J5_jcI_RAM :
    runs 0xCB004100 (small .ram 0x4000 [] F0 [])
      (fun t => t.pc == 0x4002 && t.ms == .ram) = true := by
  decide
theorem test_J7_jzI_wrap : runs 0xC9001234 (small .rom 0xFFFF [] F0 []) (fun t => t.pc == 0) = true := by decide
theorem test_J9_callI :
    runs 0xD1010300 (small .rom 0x0010 [(1, 0x8000), (10, 0x0300)] F0 [])
      (fun t => t.pc == 0x0300 && t.ms == .rom && t.reg 1 == 0x7FFF && t.ramWord 0x7FFF == 0x0011) = true := by
  decide
theorem test_J10_syscallI :
    runs 0xD3010300 (small .rom 0x0010 [(1, 0x8000), (10, 0x0300)] F0 [])
      (fun t => t.pc == 0x0300 && t.ms == .rom && t.reg 1 == 0x7FFF && t.ramWord 0x7FFF == 0x0011) = true := by
  decide
theorem test_J11_enterI :
    runs 0xD5010300 (small .rom 0x0010 [(1, 0x8000), (10, 0x0300)] F0 [])
      (fun t => t.pc == 0x0300 && t.ms == .ram && t.reg 1 == 0x7FFF && t.ramWord 0x7FFF == 0x0011) = true := by
  decide
theorem test_J12_callI_RAM :
    runs 0xD1010300 (small .ram 0x4000 [(1, 0x8000), (10, 0x0300)] F0 [])
      (fun t => t.pc == 0x0300 && t.ms == .ram && t.reg 1 == 0x7FFF && t.ramWord 0x7FFF == 0x4002) = true := by
  decide
theorem test_J13_syscallI_RAM :
    runs 0xD3010300 (small .ram 0x4000 [(1, 0x8000), (10, 0x0300)] F0 [])
      (fun t => t.pc == 0x0300 && t.ms == .rom && t.reg 1 == 0x7FFF && t.ramWord 0x7FFF == 0x4002) = true := by
  decide
theorem test_J14_enterI_RAM :
    runs 0xD5010300 (small .ram 0x4000 [(1, 0x8000), (10, 0x0300)] F0 [])
      (fun t => t.pc == 0x0300 && t.ms == .ram && t.reg 1 == 0x7FFF && t.ramWord 0x7FFF == 0x4002) = true := by
  decide
theorem test_J15_callR :
    runs 0xD00A0000 (small .rom 0x0010 [(1, 0x8000), (10, 0x0300)] F0 [])
      (fun t => t.pc == 0x0300 && t.ms == .rom && t.reg 1 == 0x7FFF && t.ramWord 0x7FFF == 0x0011) = true := by
  decide
theorem test_J16_syscallR :
    runs 0xD20A0000 (small .rom 0x0010 [(1, 0x8000), (10, 0x0300)] F0 [])
      (fun t => t.pc == 0x0300 && t.ms == .rom && t.reg 1 == 0x7FFF && t.ramWord 0x7FFF == 0x0011) = true := by
  decide
theorem test_J17_enterR :
    runs 0xD40A0000 (small .rom 0x0010 [(1, 0x8000), (10, 0x0300)] F0 [])
      (fun t => t.pc == 0x0300 && t.ms == .ram && t.reg 1 == 0x7FFF && t.ramWord 0x7FFF == 0x0011) = true := by
  decide
theorem test_J19_ret :
    runs 0xD6010000 (small .rom 0x0310 [(1, 0x7FFF)] F0 [(0x7FFF, 0x0011)])
      (fun t => t.pc == 0x0011 && t.ms == .rom && t.reg 1 == 0x8000) = true := by
  decide
theorem test_J20_sysret :
    runs 0xD7010000 (small .rom 0x0310 [(1, 0x7FFF)] F0 [(0x7FFF, 0x0011)])
      (fun t => t.pc == 0x0011 && t.ms == .ram && t.reg 1 == 0x8000) = true := by
  decide
theorem test_J21_exit :
    runs 0xD8010000 (small .rom 0x0310 [(1, 0x7FFF)] F0 [(0x7FFF, 0x0011)])
      (fun t => t.pc == 0x0011 && t.ms == .rom && t.reg 1 == 0x8000) = true := by
  decide
theorem test_J22_ret_RAM :
    runs 0xD6010000 (small .ram 0x4310 [(1, 0x7FFF)] F0 [(0x7FFF, 0x0011)])
      (fun t => t.pc == 0x0011 && t.ms == .ram && t.reg 1 == 0x8000) = true := by
  decide
theorem test_J23_sysret_RAM :
    runs 0xD7010000 (small .ram 0x4310 [(1, 0x7FFF)] F0 [(0x7FFF, 0x0011)])
      (fun t => t.pc == 0x0011 && t.ms == .ram && t.reg 1 == 0x8000) = true := by
  decide
theorem test_J24_exit_RAM :
    runs 0xD8010000 (small .ram 0x4310 [(1, 0x7FFF)] F0 [(0x7FFF, 0x0011)])
      (fun t => t.pc == 0x0011 && t.ms == .rom && t.reg 1 == 0x8000) = true := by
  decide
theorem test_J25_call_sp : refuses 0xD0010000 (rom [] F0 []) (.reservedUseOfSp .callSp) = true := by decide
theorem test_J25_syscall_sp : refuses 0xD2010000 (rom [] F0 []) (.reservedUseOfSp .syscallSp) = true := by decide
theorem test_J25_enter_sp : refuses 0xD4010000 (rom [] F0 []) (.reservedUseOfSp .enterSp) = true := by decide

/-! ### The same instruction from RAM: 2.11 -/

theorem test_RAM_addRI :
    runs 0x0C440001 (small .ram 0x4000 [(4, 7)] F0 [])
      (fun t => t.reg 4 == 8 && t.pc == 0x4002) = true := by
  decide
theorem test_RAM_addRI_wrap :
    runs 0x0C440001 (small .ram 0xFFFF [(4, 7)] F0 [])
      (fun t => t.reg 4 == 8 && t.pc == 0x0001 && t.ramWord 0 == 1) = true := by
  decide

/-! ## Witnesses: a state and operands that meet the hypotheses of each statement that has some

For the three encoding statements and `UnassignedBytes`, `ConstantField`: an assignment other than the default. -/

/-- A legal assignment that is not the spec's default: `add` and `sub` exchanged, `jz` and `jnz` exchanged, other bytes. -/
def otherOpcodes : OpcodeAssignment where
  aluFunct
    | .add => defaultAluFunct .sub
    | .sub => defaultAluFunct .add
    | f => defaultAluFunct f
  jmpFunct
    | .jz => defaultJmpFunct .jnz
    | .jnz => defaultJmpFunct .jz
    | c => defaultJmpFunct c
  syscallR := 0xD8#8
  syscallI := 0xD7#8
  enterR := 0x89#8
  enterI := 0xBF#8
  sysret := 0xD9#8
  exit := 0xFF#8

theorem witness_legal : otherOpcodes.Legal := by
  refine ⟨?_, rfl, ?_, by decide, by decide⟩
  · intro a b
    cases a <;> cases b <;> decide
  · intro a b
    cases a <;> cases b <;> decide

/-- A state in ROM at 0x0100, where the word is `jmp 0x0100`; the stack at 0x8000 holds 0x0310; a constant table at
0x0101. -/
def inRom : State where
  regs := (small .rom 0 [(1, 0x8000), (4, 0x1111), (5, 0x2000), (6, 0x0003)] F0 []).regs
  pc := 0x0100
  flags := FZC
  ms := .rom
  ram := [(0x2000, 0x80F3), (0x8000, 0x0310)]
  rom := [(0x0100, 0xC8000100), (0x0101, 0xCAFEBEEF), (0x0102, 0x12345678)]
  ramMap := []
  draws := 0

/-- The same at the top of RAM: the opcode word at 0xFFFF, the argument word at 0; `sp` is 0xFFFF. -/
def inRam : State where
  regs := (small .rom 0 [(1, 0xFFFF), (4, 0x1111), (5, 0x2000), (6, 0x0003)] F0 []).regs
  pc := 0xFFFF
  flags := F0
  ms := .ram
  ram := [(0x0000, 0xFFFF), (0xFFFF, 0xC800)]
  rom := []
  ramMap := []
  draws := 0

/-- A platform with a device at 0x0000 to 0x0FFF, nothing at 0x1000 to 0x1FFF and storage above. -/
def mapped : State := { inRam with ramMap := [⟨0, 0x1000, .device⟩, ⟨0x1000, 0x1000, .absent⟩] }

/-- The state `mapped`, running at another address. -/
def mappedAt (pc : Word) : State := { mapped with pc := pc }

theorem witness_StepRunsDecoded :
    Holds inRom 0xC800 0x0100 ∧ decodeWith otherOpcodes 0xC800 0x0100 = .ok (.jmpI 0x0100) ∧
    decode 0xC800 0x0100 = .ok (.jmpI 0x0100) :=
  ⟨Or.inl ⟨rfl, rfl⟩, rfl, rfl⟩

theorem witness_StepRunsDecoded_RAM : Holds inRam 0xC800 0xFFFF ∧ decode 0xC800 0xFFFF = .ok (.jmpI 0xFFFF) :=
  ⟨Or.inr ⟨rfl, rfl, rfl, rfl, rfl⟩, rfl⟩

theorem witness_StepRefusesReserved :
    Holds (inRom.placeAtPc 0x89000000) 0x8900 0x0000 ∧
    decodeWith defaultOpcodes 0x8900 0x0000 = .error .unassignedOpcode :=
  ⟨Or.inl ⟨rfl, rfl⟩, rfl⟩

theorem witness_FetchFromRom :
    inRom.ms = .rom ∧ inRom.romWord inRom.pc = some 0xC8000100 ∧
    (inRom.setPc 0xFFFF).romWord (inRom.setPc 0xFFFF).pc = none := by decide

/-- Each clause of the fetch from RAM: both storage across the top of the address space, device or absent first word, and a
device or absent second word at the edge of a region. -/
theorem witness_FetchFromRam :
    (inRam.ms = .ram ∧ inRam.ramKind inRam.pc = .storage ∧ inRam.ramKind (inRam.pc + 1) = .storage) ∧
    (mappedAt 0).ramKind (mappedAt 0).pc = .device ∧ (mappedAt 0x1FFF).ramKind (mappedAt 0x1FFF).pc = .absent ∧
    (mapped.ramKind mapped.pc = .storage ∧ mapped.ramKind (mapped.pc + 1) = .device) ∧
    (∃ s : State, s.ms = .ram ∧ s.ramKind s.pc = .storage ∧ s.ramKind (s.pc + 1) = .absent) :=
  ⟨by decide, by decide, by decide, by decide,
    { mapped with ramMap := [⟨0x3000, 1, .absent⟩], pc := 0x2FFF }, by decide⟩

theorem witness_StoreSeenByNextFetch :
    (∃ t, exec (.movMD 0x0001 4) inRam = .next t ∧ storeAddress (.movMD 0x0001 4) inRam = some 0x0001 ∧ t.ms = .ram ∧
      t.pc = 0x0001 ∧ t.ramKind t.pc = .storage ∧ t.ramKind (t.pc + 1) = .storage) ∧
    (∃ t, exec (.addMX 6 0xFFFF 4) inRam = .next t ∧ storeAddress (.addMX 6 0xFFFF 4) inRam = some 0x0002 ∧ t.ms = .ram ∧
      t.pc = 0x0001 ∧ t.ramKind t.pc = .storage ∧ t.ramKind (t.pc + 1) = .storage) ∧
    (∃ t, exec (.callI 0xFFFD) inRam = .next t ∧ storeAddress (.callI 0xFFFD) inRam = some 0xFFFE ∧ t.ms = .ram ∧
      t.pc = 0xFFFD ∧ t.ramKind t.pc = .storage ∧ t.ramKind (t.pc + 1) = .storage) :=
  ⟨⟨_, rfl, rfl, rfl, rfl, rfl, rfl⟩, ⟨_, rfl, rfl, rfl, rfl, rfl, rfl⟩, ⟨_, rfl, rfl, rfl, rfl, rfl, rfl⟩⟩

theorem witness_PlacedInstructionRuns :
    decodeTableWord 32 0x04450006 = some (.addRR 4 5 6) ∧ inRam.ms = .ram ∧
    inRam.ramKind inRam.pc = .storage ∧ inRam.ramKind (inRam.pc + 1) = .storage := by decide

theorem witness_RamWriteRule :
    inRam.ramKind 0xFFFF = .storage ∧ mapped.ramKind 0x0000 = .device ∧ mapped.ramKind 0x0FFF = .device ∧
    mapped.ramKind 0x1000 = .absent ∧ mapped.ramKind 0x2000 = .storage := by decide

theorem witness_RomReadRule :
    inRom.romWord (inRom.reg 0 + 0x0101) = some 0xCAFEBEEF ∧ inRom.romWord (inRom.reg 5 + 0) = none ∧
    ∃ t, exec (.movMD 0x2000 4) inRom = .next t :=
  ⟨by decide, by decide, _, rfl⟩

theorem witness_RegisterZero : (∃ t, exec (.addRI 0 5 1) inRom = .next t) ∧ writtenRegs (.addRI 0 5 1) = [zeroReg] :=
  ⟨⟨_, rfl⟩, rfl⟩

theorem witness_AluDestinations :
    inRom.ramKind 0xFFFF = .storage ∧ inRom.ramKind (inRom.reg 5) = .storage ∧
    inRom.ramKind (inRom.reg 5 + 0xE000) = .storage ∧ (inRom.reg 5 + 0xE000 : Word) = 0 := by decide

theorem witness_Arithmetic :
    (AluOp.add = .add ∨ AluOp.add = .addc) ∧ (AluOp.subb = .sub ∨ AluOp.subb = .subb) ∧
    (AluOp.xor = .and ∨ AluOp.xor = .or ∨ AluOp.xor = .xor) := by decide

theorem witness_ThirtyTwoBit :
    (2 : Reg) ≠ zeroReg ∧ (3 : Reg) ≠ zeroReg ∧ (2 : Reg) ≠ 3 ∧ (2 : Reg) ≠ 5 ∧ (2 : Reg) ≠ 6 := by decide

theorem witness_MovReadsNoFirstOperand : (4 : Reg) ≠ 5 := by decide

theorem witness_ShiftsAreArithmetic : (1#4 : BitVec 4) ≠ 0 ∧ (15#4 : BitVec 4) ≠ 0 := by decide

theorem witness_IndexedMemory :
    inRom.ramKind (inRom.reg 5 + 0) = .storage ∧ inRam.ramKind (inRam.reg 1 + 1) = .storage := by decide

theorem witness_PeekReadsConstantTable :
    let c : Nat → Word := fun n => if n = 0 then 0xCAFE else if n = 1 then 0xBEEF else if n = 2 then 0x1234 else 0x5678
    (∀ j, j < 2 → inRom.romWord (0x0101 + BitVec.ofNat 16 j) = some (joinWords (c (2 * j)) (c (2 * j + 1)))) ∧
    0 < 2 * 2 ∧ 3 < 2 * 2 ∧ (4 : Reg) ≠ zeroReg := by
  decide

theorem witness_PushInstructions :
    inRom.ramKind inRom.pushAddress = .storage ∧ (inRom.setReg 1 0).pushAddress = 0xFFFF ∧
    (inRom.setReg 1 0).ramKind (inRom.setReg 1 0).pushAddress = .storage ∧ (0 : Reg) ≠ spReg := by decide

theorem witness_PopInstructions :
    inRom.ramKind inRom.popAddress = .storage ∧ inRam.popAddress = 0xFFFF ∧
    inRam.ramKind inRam.popAddress = .storage ∧ (0 : Reg) ≠ spReg := by decide

theorem witness_PushThenPop : (4 : Reg) ≠ spReg ∧ (0 : Reg) ≠ spReg ∧ inRom.ramKind inRom.pushAddress = .storage := by
  decide

theorem witness_FlagsWordRoundTrip :
    let l : FlagsLayout := ⟨15, 0, 13, 0⟩
    l.posZ = 15 ∧ l.posC = 0 ∧ l.posV = 14 ∧ l.posS = 1 ∧ (2 : Fin 16) ≠ l.posZ ∧ (2 : Fin 16) ≠ l.posC ∧
      (2 : Fin 16) ≠ l.posV ∧ (2 : Fin 16) ≠ l.posS := by
  decide

theorem witness_LayoutsAreDistinctPositions : [(15 : Fin 16), 0, 14, 1].Nodup := by decide

theorem witness_PopfRestoresFlags :
    ∃ t u : State, exec .pushf inRom = .next t ∧ u.reg spReg = t.reg spReg ∧
      u.ramWord t.popAddress = t.ramWord t.popAddress ∧ u.ramMap = t.ramMap ∧ u.flags ≠ t.flags :=
  ⟨((inRom.push inRom.flagsWord).addDraws 1).advance,
    (((inRom.push inRom.flagsWord).addDraws 1).advance).setFlags F0, rfl, rfl, rfl, rfl, by decide⟩

theorem witness_CompareContract :
    ∃ is, (Macro.cmp 5 (.direct 0xFFFF)).expand .rom 0 = some is ∧ (Operand.direct 0xFFFF).Readable inRom :=
  ⟨_, rfl, fun a h => by
    cases h
    decide⟩

theorem witness_JumpToItself : ∃ op, Holds inRom op inRom.pc ∧ decode op inRom.pc = .ok (.jmpI inRom.pc) :=
  ⟨0xC800, Or.inl ⟨rfl, rfl⟩, rfl⟩

theorem witness_CallRule : inRam.ramKind inRam.pushAddress = .storage ∧ (0 : Reg) ≠ spReg := by decide

theorem witness_ReturnRule : inRom.ramKind inRom.popAddress = .storage := by decide

/-- Each of the six matched pairs of call and return: the state after the call is itself a state of the callee with the
stack as the call left it. -/
theorem witness_MatchedCallAndReturn :
    (inRom.ms = .rom ∧ ∃ t, exec (.callI 0x0300) inRom = .next t ∧ t.ms = .rom) ∧
    (∃ t, exec (.syscallI 0x0300) inRom = .next t ∧ t.ms = .rom) ∧
    (∃ t, exec (.enterI 0x0300) inRom = .next t ∧ t.ms = .ram) ∧
    (inRam.ms = .ram ∧ ∃ t, exec (.callI 0x0300) inRam = .next t ∧ t.ms = .ram) ∧
    (∃ t, exec (.enterI 0x0300) inRam = .next t ∧ t.ms = .ram) ∧
    (∃ t, exec (.syscallI 0x0300) inRam = .next t ∧ t.ms = .rom) :=
  ⟨⟨rfl, _, rfl, rfl⟩, ⟨_, rfl, rfl⟩, ⟨_, rfl, rfl⟩, ⟨rfl, _, rfl, rfl⟩, ⟨_, rfl, rfl⟩, ⟨_, rfl, rfl⟩⟩

theorem witness_MatchedCallAndReturn_register :
    (∃ t, exec (.callR 5) inRom = .next t ∧ t.pc = 0x2000 ∧ t.ms = .rom) ∧
    (∃ t, exec (.syscallR 5) inRom = .next t ∧ t.ms = .rom) ∧
    (∃ t, exec (.enterR 5) inRom = .next t ∧ t.ms = .ram) ∧
    (∃ t, exec (.callR 5) inRam = .next t ∧ t.ms = .ram) ∧
    (∃ t, exec (.enterR 5) inRam = .next t ∧ t.ms = .ram) ∧
    (∃ t, exec (.syscallR 0) inRam = .next t ∧ t.pc = 0x0000 ∧ t.ms = .rom) :=
  ⟨⟨_, rfl, rfl, rfl⟩, ⟨_, rfl, rfl⟩, ⟨_, rfl, rfl⟩, ⟨_, rfl, rfl⟩, ⟨_, rfl, rfl⟩, ⟨_, rfl, rfl, rfl⟩⟩

/-- A harness that passes the entry point 0xFFFF: the first instruction is the image's word there (R341). -/
theorem witness_ResetInvariant :
    Memory.wf (w := 32) [(0x0000, 0), (0xFFFF, 0xC8000100)] = true ∧
    Memory.read (w := 32) [(0x0000, 0), (0xFFFF, 0xC8000100)] (0xFFFF#16).toNat = some 0xC8000100 ∧
    ∃ t, step (State.resetWith 0xFFFF [(0x0000, 0), (0xFFFF, 0xC8000100)] []) = .next t ∧ t.pc = 0x0100 :=
  ⟨by decide, by decide, _, rfl, rfl⟩

theorem witness_SequentialAdvance :
    (∃ t, exec (.addRI 4 5 1) inRam = .next t) ∧ isCallOrReturn (.addRI 4 5 1) = false ∧ jumpCond (.addRI 4 5 1) = none ∧
    (∃ t, exec (.jzI 0x0300) inRam = .next t) ∧ isCallOrReturn (.jzI 0x0300) = false ∧
    jumpCond (.jzI 0x0300) = some .jz ∧ condHolds .jz inRam.flags = false :=
  ⟨⟨_, rfl⟩, rfl, rfl, ⟨_, rfl⟩, rfl, rfl, rfl⟩

/-- One instruction of each flag effect completes, and of each memory-space effect. -/
theorem witness_FlagAndMemSpaceWriters :
    (∃ t, exec (.movRI 4 5) inRom = .next t) ∧ flagEffect (.movRI 4 5) = .unchanged ∧
    (∃ t, exec (.sll 4 5 15) inRom = .next t) ∧ flagEffect (.sll 4 5 15) = .logic ∧
    (∃ t, exec (.sll 4 5 0) inRom = .next t) ∧ flagEffect (.sll 4 5 0) = .unchanged ∧
    (∃ t, exec .popf inRom = .next t) ∧ flagEffect .popf = .popped ∧
    (∃ t, exec .exit inRam = .next t) ∧ msAfter .exit .ram = .rom :=
  ⟨⟨_, rfl⟩, rfl, ⟨_, rfl⟩, rfl, ⟨_, rfl⟩, rfl, ⟨_, rfl⟩, rfl, ⟨_, rfl⟩, rfl⟩

theorem witness_FlagReaders : readsFlags (.andRI 4 5 1) = false ∧ ∃ t, exec (.andRI 4 5 1) inRom = .next t :=
  ⟨rfl, _, rfl⟩

theorem witness_FrameOfEveryInstruction :
    (∃ t, exec (.swap 4 5 0) inRom = .next t) ∧ storeAddress (.swap 4 5 0) inRom = some 0x2000 ∧
    writtenRegs (.swap 4 5 0) = [4] := ⟨⟨_, rfl⟩, rfl, rfl⟩

theorem witness_OutsideStorageRefused :
    (Instr.movMD 0x0FFF 4).wellFormed = true ∧ ramAddress (.movMD 0x0FFF 4) mapped = some 0x0FFF ∧
    mapped.ramKind 0x0FFF = .device ∧ ramAddress (.movMD 0x1FFF 4) mapped = some 0x1FFF ∧
    mapped.ramKind 0x1FFF = .absent := by decide

theorem witness_StepKeepsInvariant :
    inRom.Inv ∧ (∃ t, step inRom = .next t) ∧ (∃ t, stepWith otherOpcodes inRom = .next t) :=
  ⟨⟨rfl, rfl, rfl⟩, ⟨_, rfl⟩, ⟨_, rfl⟩⟩

theorem witness_ComplementMacros :
    (4 : Reg) ≠ zeroReg ∧ (Operand.reg 6).Readable inRom ∧
    (∃ is, (Macro.nand 4 5 (.reg 6)).expand .rom 0 = some is) ∧ (∃ is, (Macro.nor 4 5 (.reg 6)).expand .rom 0 = some is) ∧
    (∃ is, (Macro.xnor 4 5 (.reg 6)).expand .rom 0 = some is) :=
  ⟨by decide, (fun _ h => nomatch h), ⟨_, rfl⟩, ⟨_, rfl⟩, ⟨_, rfl⟩⟩

theorem witness_FlagMacros :
    (∃ is, (Macro.movf 4 (.indirect 5)).expand .rom 0 = some is) ∧ (Operand.indirect 5).Readable inRom :=
  ⟨⟨_, rfl⟩, fun a h => by
    cases h
    decide⟩

theorem witness_LoadByteUnsigned : (4 : Reg) ≠ zeroReg ∧ inRom.ramKind (inRom.reg 5 + 0) = .storage := by decide

theorem witness_DurationsFixedByOpcode :
    (encodeOp defaultOpcodes (.andRI 4 5 1)).extractLsb' 8 8 = (encodeOp defaultOpcodes (.andRI 6 7 2)).extractLsb' 8 8 ∧
    (encodeOp otherOpcodes (.peek 4 5 1 .upper)).extractLsb' 8 8 = (encodeOp otherOpcodes (.peek 6 7 2 .upper)).extractLsb' 8 8 := by
  decide

end Sys2Proof.Tests
end

section
/-! PROOF. The 100 instructions fall into thirteen actions, whose operands are words already read. `exec_eq_guarded` says that
an instruction is its three checks (reserved use of `sp`, RAM address, ROM address) and then its action; `exec_eq_next` that
it completes exactly under `Completes`, with the state after its action. Each table of Safety.lean is read off the action
too, so a fact about all 100 instructions is a fact about thirteen actions. -/

namespace Sys2Proof.Machine

/-! ## Actions -/

/-- What an instruction does once its checks have passed, its operands read from the state before (R43, R106, R174). -/
inductive Action where
  /-- `x[D] <- v`: the register forms of `mov`, `movb` and `peek` (R107, R220, R232). -/
  | load (rD : Reg) (v : Word)
  /-- `x[D] <- ALU_f(a, b, F.C)` (R106). -/
  | alu (f : AluOp) (rD : Reg) (a b : Word)
  /-- `RAM[ea] <- v`: the memory forms of `mov` (R175). -/
  | store (ea v : Word)
  /-- `RAM[ea] <- ALU_f(RAM[ea], b, F.C)` (R174). -/
  | aluStore (f : AluOp) (ea b : Word)
  /-- `x[D] <- shift_T(x[A], amount)` (R210, R214). -/
  | shift (t : ShiftOp) (rD rA : Reg) (amount : BitVec 4)
  /-- `x[D]` and `RAM[ea]` exchanged (R230). -/
  | swap (rD : Reg) (ea : Word)
  /-- `push(v)` (R242, R243). -/
  | push (v : Word)
  /-- `push(flags_to_word(F))` (R244). -/
  | pushf
  /-- `x[D] <- pop()` (R245). -/
  | pop (rD : Reg)
  /-- `F <- word_to_flags(pop())` (R246). -/
  | popf
  /-- `pc <- target` if the condition holds (R260). -/
  | jump (c : Cond) (target : Word)
  /-- `push(pc + N)`, on to `target` in `space` (R290). -/
  | call (target : Word) (space : MemSpace)
  /-- `pc <- pop()`, on in `space` (R297 to R299). -/
  | ret (space : MemSpace)

/-- The state after an action. -/
def Action.after (o : Action) (s : State) : State :=
  match o with
  | .load rD v => s.movToReg rD v
  | .alu f rD a b => s.aluToReg f rD a b
  | .store ea v => s.movToRam ea v
  | .aluStore f ea b => s.aluToRam f ea b
  | .shift t rD rA amount => s.shift t rD rA amount
  | .swap rD ea => s.exchange rD ea
  | .push v => (s.push v).advance
  | .pushf => ((s.push s.flagsWord).addDraws 1).advance
  | .pop rD => (s.dropTop.setReg rD s.popped).advance
  | .popf => (s.dropTop.setFlags (wordToFlags Config.flagsLayout s.popped)).advance
  | .jump c target => s.jump c target
  | .call target space => ((s.push s.nextPc).setPc target).setMs space
  | .ret space => (s.dropTop.setPc s.popped).setMs space

/-- The word `peek` reads at a populated ROM address (R44, R232); `exec_eq_next` uses it at no other. -/
def State.peeked (s : State) (ea : Word) (half : RomHalf) : Word := romHalf ((s.romWord ea).getD 0) half

/-- The action of an instruction. -/
def action (i : Instr) (s : State) : Action :=
  match i with
  | .movRR rD rB => .load rD (s.reg rB)
  | .andRR rD rA rB => .alu .and rD (s.reg rA) (s.reg rB)
  | .orRR rD rA rB => .alu .or rD (s.reg rA) (s.reg rB)
  | .xorRR rD rA rB => .alu .xor rD (s.reg rA) (s.reg rB)
  | .addRR rD rA rB => .alu .add rD (s.reg rA) (s.reg rB)
  | .subRR rD rA rB => .alu .sub rD (s.reg rA) (s.reg rB)
  | .addcRR rD rA rB => .alu .addc rD (s.reg rA) (s.reg rB)
  | .subbRR rD rA rB => .alu .subb rD (s.reg rA) (s.reg rB)
  | .movRI rD imm => .load rD imm
  | .andRI rD rA imm => .alu .and rD (s.reg rA) imm
  | .orRI rD rA imm => .alu .or rD (s.reg rA) imm
  | .xorRI rD rA imm => .alu .xor rD (s.reg rA) imm
  | .addRI rD rA imm => .alu .add rD (s.reg rA) imm
  | .subRI rD rA imm => .alu .sub rD (s.reg rA) imm
  | .addcRI rD rA imm => .alu .addc rD (s.reg rA) imm
  | .subbRI rD rA imm => .alu .subb rD (s.reg rA) imm
  | .movRD rD addr => .load rD (s.ramWord addr)
  | .andRD rD rA addr => .alu .and rD (s.reg rA) (s.ramWord addr)
  | .orRD rD rA addr => .alu .or rD (s.reg rA) (s.ramWord addr)
  | .xorRD rD rA addr => .alu .xor rD (s.reg rA) (s.ramWord addr)
  | .addRD rD rA addr => .alu .add rD (s.reg rA) (s.ramWord addr)
  | .subRD rD rA addr => .alu .sub rD (s.reg rA) (s.ramWord addr)
  | .addcRD rD rA addr => .alu .addc rD (s.reg rA) (s.ramWord addr)
  | .subbRD rD rA addr => .alu .subb rD (s.reg rA) (s.ramWord addr)
  | .movRN rD rB => .load rD (s.ramWord (s.reg rB))
  | .andRN rD rA rB => .alu .and rD (s.reg rA) (s.ramWord (s.reg rB))
  | .orRN rD rA rB => .alu .or rD (s.reg rA) (s.ramWord (s.reg rB))
  | .xorRN rD rA rB => .alu .xor rD (s.reg rA) (s.ramWord (s.reg rB))
  | .addRN rD rA rB => .alu .add rD (s.reg rA) (s.ramWord (s.reg rB))
  | .subRN rD rA rB => .alu .sub rD (s.reg rA) (s.ramWord (s.reg rB))
  | .addcRN rD rA rB => .alu .addc rD (s.reg rA) (s.ramWord (s.reg rB))
  | .subbRN rD rA rB => .alu .subb rD (s.reg rA) (s.ramWord (s.reg rB))
  | .movRX rD rA imm => .load rD (s.ramWord (s.indexed rA imm))
  | .andRX rD rA imm => .alu .and rD (s.reg rD) (s.ramWord (s.indexed rA imm))
  | .orRX rD rA imm => .alu .or rD (s.reg rD) (s.ramWord (s.indexed rA imm))
  | .xorRX rD rA imm => .alu .xor rD (s.reg rD) (s.ramWord (s.indexed rA imm))
  | .addRX rD rA imm => .alu .add rD (s.reg rD) (s.ramWord (s.indexed rA imm))
  | .subRX rD rA imm => .alu .sub rD (s.reg rD) (s.ramWord (s.indexed rA imm))
  | .addcRX rD rA imm => .alu .addc rD (s.reg rD) (s.ramWord (s.indexed rA imm))
  | .subbRX rD rA imm => .alu .subb rD (s.reg rD) (s.ramWord (s.indexed rA imm))
  | .movMD addr rA => .store addr (s.reg rA)
  | .andMD addr rA => .aluStore .and addr (s.reg rA)
  | .orMD addr rA => .aluStore .or addr (s.reg rA)
  | .xorMD addr rA => .aluStore .xor addr (s.reg rA)
  | .addMD addr rA => .aluStore .add addr (s.reg rA)
  | .subMD addr rA => .aluStore .sub addr (s.reg rA)
  | .addcMD addr rA => .aluStore .addc addr (s.reg rA)
  | .subbMD addr rA => .aluStore .subb addr (s.reg rA)
  | .movMN rA rB => .store (s.reg rA) (s.reg rB)
  | .andMN rA rB => .aluStore .and (s.reg rA) (s.reg rB)
  | .orMN rA rB => .aluStore .or (s.reg rA) (s.reg rB)
  | .xorMN rA rB => .aluStore .xor (s.reg rA) (s.reg rB)
  | .addMN rA rB => .aluStore .add (s.reg rA) (s.reg rB)
  | .subMN rA rB => .aluStore .sub (s.reg rA) (s.reg rB)
  | .addcMN rA rB => .aluStore .addc (s.reg rA) (s.reg rB)
  | .subbMN rA rB => .aluStore .subb (s.reg rA) (s.reg rB)
  | .movMX rA imm rB => .store (s.indexed rA imm) (s.reg rB)
  | .andMX rA imm rB => .aluStore .and (s.indexed rA imm) (s.reg rB)
  | .orMX rA imm rB => .aluStore .or (s.indexed rA imm) (s.reg rB)
  | .xorMX rA imm rB => .aluStore .xor (s.indexed rA imm) (s.reg rB)
  | .addMX rA imm rB => .aluStore .add (s.indexed rA imm) (s.reg rB)
  | .subMX rA imm rB => .aluStore .sub (s.indexed rA imm) (s.reg rB)
  | .addcMX rA imm rB => .aluStore .addc (s.indexed rA imm) (s.reg rB)
  | .subbMX rA imm rB => .aluStore .subb (s.indexed rA imm) (s.reg rB)
  | .sll rD rA amount => .shift .sll rD rA amount
  | .srl rD rA amount => .shift .srl rD rA amount
  | .sra rD rA amount => .shift .sra rD rA amount
  | .movb rD rA imm => .load rD (sext8 (s.ramWord (s.indexed rA imm)))
  | .swap rD rA imm => .swap rD (s.indexed rA imm)
  | .peek rD rA imm half => .load rD (s.peeked (s.indexed rA imm) half)
  | .pushR rB => .push (s.reg rB)
  | .pushI imm => .push imm
  | .pushf => .pushf
  | .pop rD => .pop rD
  | .popf => .popf
  | .jmpR rA => .jump .jmp (s.reg rA)
  | .jzR rA => .jump .jz (s.reg rA)
  | .jnzR rA => .jump .jnz (s.reg rA)
  | .jcR rA => .jump .jc (s.reg rA)
  | .jncR rA => .jump .jnc (s.reg rA)
  | .jltR rA => .jump .jlt (s.reg rA)
  | .jleR rA => .jump .jle (s.reg rA)
  | .jleuR rA => .jump .jleu (s.reg rA)
  | .jmpI addr => .jump .jmp addr
  | .jzI addr => .jump .jz addr
  | .jnzI addr => .jump .jnz addr
  | .jcI addr => .jump .jc addr
  | .jncI addr => .jump .jnc addr
  | .jltI addr => .jump .jlt addr
  | .jleI addr => .jump .jle addr
  | .jleuI addr => .jump .jleu addr
  | .callR rA => .call (s.reg rA) s.ms
  | .callI addr => .call addr s.ms
  | .syscallR rA => .call (s.reg rA) .rom
  | .syscallI addr => .call addr .rom
  | .enterR rA => .call (s.reg rA) .ram
  | .enterI addr => .call addr .ram
  | .ret => .ret s.ms
  | .sysret => .ret .ram
  | .exit => .ret .rom

/-! ## An instruction is its checks, then its action -/

/-- Refuse a reserved use of `sp`, if there is one (R247, R304). -/
def refuseReserved (use : Option IllFormed) (k : Outcome) : Outcome :=
  match use with
  | some why => .refused (.reservedUseOfSp why)
  | none => k

/-- Go on where the RAM address, if there is one, is storage (R50). -/
def State.onRam (s : State) (a : Option Word) (k : Outcome) : Outcome :=
  match a with
  | some a => s.onStorage a k
  | none => k

/-- Go on where the ROM address, if there is one, is populated (R44). -/
def State.onRom (s : State) (a : Option Word) (k : Outcome) : Outcome :=
  match a with
  | some a => if (s.romWord a).isSome then k else .refused (.romUnpopulated a)
  | none => k

theorem refuseReserved_eq_next {use : Option IllFormed} {k : Outcome} {t : State} :
    refuseReserved use k = .next t ↔ use.isNone = true ∧ k = .next t := by
  cases use <;> simp [refuseReserved]

theorem State.onRam_eq_next {s t : State} {a : Option Word} {k : Outcome} :
    s.onRam a k = .next t ↔ (∀ b, a = some b → s.ramKind b = .storage) ∧ k = .next t := by
  cases a <;> simp [State.onRam, State.onStorage_eq_next]

theorem State.onRom_eq_next {s t : State} {a : Option Word} {k : Outcome} :
    s.onRom a k = .next t ↔ (∀ b, a = some b → (s.romWord b).isSome = true) ∧ k = .next t := by
  cases a with
  | none => simp [State.onRom]
  | some a => by_cases h : (s.romWord a).isSome = true <;> simp [State.onRom, h]

theorem unlessSp_eq_refuseReserved (r : Reg) (why : IllFormed) (k : Outcome) :
    unlessSp r why k = refuseReserved (if r = spReg then some why else none) k := by
  unfold unlessSp
  split <;> rfl

theorem State.peekAt_eq_onRom (s : State) (rD : Reg) (ea : Word) (half : RomHalf) :
    s.peekAt rD ea half = s.onRom (some ea) (.next (s.movToReg rD (s.peeked ea half))) := by
  cases h : s.romWord ea <;> simp [State.peekAt, State.onRom, State.peeked, State.movToReg, h]

/-- An instruction with its three checks in front of its action. -/
def guarded (i : Instr) (s : State) : Outcome :=
  refuseReserved i.illFormed? (s.onRam (ramAddress i s) (s.onRom (romAddress i s) (.next ((action i s).after s))))

/-- The meaning of every instruction is its checks and then its action. -/
theorem exec_eq_guarded (i : Instr) (s : State) : exec i s = guarded i s := by
  cases i
  case pushR => exact unlessSp_eq_refuseReserved ..
  case pop => exact unlessSp_eq_refuseReserved ..
  case callR => exact unlessSp_eq_refuseReserved ..
  case syscallR => exact unlessSp_eq_refuseReserved ..
  case enterR => exact unlessSp_eq_refuseReserved ..
  case peek => exact State.peekAt_eq_onRom ..
  all_goals rfl

/-- An instruction completes exactly under `Completes`, and then its action says the state after. -/
theorem exec_eq_next {i : Instr} {s t : State} :
    exec i s = .next t ↔ Completes i s ∧ (action i s).after s = t := by
  rw [exec_eq_guarded, guarded, refuseReserved_eq_next, State.onRam_eq_next, State.onRom_eq_next]
  simp only [Completes, Instr.wellFormed, Host.Outcome.next.injEq, and_assoc]

end Sys2Proof.Machine
end

section
/-! PROOF. The tables of Safety.lean, one row per instruction, as tables with one row per action. -/

namespace Sys2Proof.Machine

/-! ## The tables of an action -/

/-- The general registers an action may write. -/
def Action.regs : Action → List Reg
  | .load rD _ | .alu _ rD _ _ | .shift _ rD _ _ | .swap rD _ => [rD]
  | .pop rD => [spReg, rD]
  | .push _ | .pushf | .popf | .call .. | .ret _ => [spReg]
  | .store .. | .aluStore .. | .jump .. => []

/-- The address and the word an action stores, if it stores. -/
def Action.stored (o : Action) (s : State) : Option (Word × Word) :=
  match o with
  | .store ea v => some (ea, v)
  | .aluStore f ea b => some (ea, aluStored f ea b s)
  | .swap rD ea => some (ea, s.reg rD)
  | .push v => some (s.pushAddress, v)
  | .pushf => some (s.pushAddress, s.flagsWord)
  | .call .. => some (s.pushAddress, s.nextPc)
  | .load .. | .alu .. | .shift .. | .pop _ | .popf | .jump .. | .ret _ => none

/-- The row of R28 an ALU operation is in. -/
def aluFlagEffect : AluOp → FlagEffect
  | .mov => .unchanged
  | .and | .or | .xor => .logic
  | .add | .sub | .addc | .subb => .sum

/-- The row of R28 an action is in. -/
def Action.flagEffect : Action → FlagEffect
  | .alu f _ _ _ | .aluStore f _ _ => aluFlagEffect f
  | .shift _ _ _ amount => shiftFlagEffect amount
  | .popf => .popped
  | _ => .unchanged

/-- How many draws the flags take in each row of R28. -/
def FlagEffect.draws : FlagEffect → Nat
  | .logic => 2
  | .sum | .popped | .unchanged => 0

/-- How many draws an action makes: those of its flags, and the one of the word `pushf` stores. -/
def Action.draws : Action → Nat
  | .pushf => 1
  | o => o.flagEffect.draws

/-- The memory space an action leaves. -/
def Action.space (o : Action) (ms : MemSpace) : MemSpace :=
  match o with
  | .call _ space | .ret space => space
  | _ => ms

/-- The condition of a jump. -/
def Action.jumpCond : Action → Option Cond
  | .jump c _ => some c
  | _ => none

/-- Is the action a call or a return? -/
def Action.isCallOrReturn : Action → Bool
  | .call .. | .ret _ => true
  | _ => false

/-- Does an ALU operation read `C`: `addc` and `subb` (R29, R116, R117)? -/
def aluReadsCarry : AluOp → Bool
  | .addc | .subb => true
  | _ => false

/-- Does an action read the flags? -/
def Action.readsFlags : Action → Bool
  | .alu f _ _ _ | .aluStore f _ _ => aluReadsCarry f
  | .pushf | .jump .. => true
  | _ => false

/-! ## The table of an instruction is the table of its action -/

theorem writtenRegs_eq (i : Instr) (s : State) : writtenRegs i = (action i s).regs := by
  cases i <;> rfl

theorem storeAddress_eq (i : Instr) (s : State) : storeAddress i s = ((action i s).stored s).map Prod.fst := by
  cases i <;> rfl

theorem storedWord_eq (i : Instr) (s : State) : storedWord i s = ((action i s).stored s).map Prod.snd := by
  cases i <;> rfl

theorem flagEffect_eq (i : Instr) (s : State) : flagEffect i = (action i s).flagEffect := by
  cases i <;> rfl

theorem drawCount_eq (i : Instr) (s : State) : drawCount i = (action i s).draws := by
  cases i
  case sll _ _ n | srl _ _ n | sra _ _ n =>
    simp only [drawCount, flagEffect, action, Action.draws, Action.flagEffect]
    cases shiftFlagEffect n <;> rfl
  all_goals rfl

theorem msAfter_eq (i : Instr) (s : State) : msAfter i s.ms = (action i s).space s.ms := by
  cases i <;> rfl

theorem jumpCond_eq (i : Instr) (s : State) : jumpCond i = (action i s).jumpCond := by
  cases i <;> rfl

theorem isCallOrReturn_eq (i : Instr) (s : State) : isCallOrReturn i = (action i s).isCallOrReturn := by
  cases i <;> rfl

theorem readsFlags_eq (i : Instr) (s : State) : readsFlags i = (action i s).readsFlags := by
  cases i <;> rfl

/-- The operands of an instruction are words of registers and memory, never the flags (R63, R106). -/
theorem action_setFlags (i : Instr) (s : State) (F : Flags) : action i (s.setFlags F) = action i s := by
  cases i <;> rfl

/-- Whether an instruction completes does not depend on the flags (R29). -/
theorem completes_setFlags {i : Instr} {s : State} (F : Flags) (h : Completes i s) : Completes i (s.setFlags F) := by
  obtain ⟨hwf, hram, hrom⟩ := h
  have ram_eq : ramAddress i (s.setFlags F) = ramAddress i s := by cases i <;> rfl
  have rom_eq : romAddress i (s.setFlags F) = romAddress i s := by cases i <;> rfl
  exact ⟨hwf, fun a ha => hram a (ram_eq ▸ ha), fun a ha => hrom a (rom_eq ▸ ha)⟩

end Sys2Proof.Machine
end

section
/-! PROOF. What an action leaves in each field of the state, over its thirteen cases. -/

namespace Sys2Proof.Machine

/-! ## Registers, RAM, ROM and the address map -/

/-- A shift by 0 only goes on; any other shifts (R210, R214). -/
theorem State.shift_cases (s : State) (t : ShiftOp) (rD rA : Reg) (n : BitVec 4) :
    (n = 0 ∧ s.shift t rD rA n = s.advance) ∨ (n ≠ 0 ∧ s.shift t rD rA n = s.shiftToReg t rD rA n.toNat) := by
  by_cases hn : n = 0
  · exact .inl ⟨hn, if_pos hn⟩
  · exact .inr ⟨hn, if_neg hn⟩

/-- The frame of a shift, by 0 or not. -/
theorem State.shift_frame (s : State) (t : ShiftOp) (rD rA : Reg) (n : BitVec 4) :
    SameBut [rD] [] s (s.shift t rD rA n) := by
  obtain ⟨-, h⟩ | ⟨-, h⟩ := State.shift_cases s t rD rA n
  · rw [h]
    exact (SameBut.refl _ _ s).advance
  · rw [h]
    exact (State.shiftToReg_effect s t rD rA n.toNat).others.frame

/-- Every action keeps all registers but its own, all RAM words but the one it stores, ROM and the address map. -/
theorem Action.after_frame (o : Action) (s : State) :
    SameBut o.regs ((o.stored s).map Prod.fst).toList s (o.after s) := by
  cases o with
  | load rD v => exact (State.movToReg_effect s rD 0 v).others.frame
  | alu f rD a b => exact (State.aluToReg_effect s f rD a b).others.frame
  | store ea v => exact (State.movToRam_effect s ea v).others.frame
  | aluStore f ea b => exact (State.aluToRam_effect s f ea b).others.frame
  | shift t rD rA n => exact State.shift_frame s t rD rA n
  | swap rD ea => exact (State.exchange_goesOn s rD ea).frame
  | push v => exact (State.push_advance_effect s v).others.frame
  | pushf => exact ((State.push_frame s _).addDraws 1).advance
  | pop rD =>
    have hdrop : SameBut [spReg, rD] [] s s.dropTop := (State.dropTop_frame s).mono (by simp) (by simp)
    exact (hdrop.setReg _ (by simp)).advance
  | popf => exact ((State.dropTop_frame s).setFlags _).advance
  | jump c target => exact (SameBut.refl _ _ s).setPc _
  | call target space => exact (State.callTo_effect s target space).others.frame
  | ret space => exact (State.returnTo_effect s space).others.frame

/-- Every action leaves RAM as it was, with the one word written that it stores. -/
theorem Action.after_ram (o : Action) (s : State) :
    (o.after s).ram = (o.stored s).elim s.ram fun p => s.ram.write p.1.toNat p.2 := by
  cases o with
  | shift t rD rA n =>
    obtain ⟨-, h⟩ | ⟨-, h⟩ := State.shift_cases s t rD rA n
    · rw [Action.after, h]
      rfl
    · rw [Action.after, h]
      rfl
  | _ => rfl

/-- No action writes the unused cell of register 0 (R21). -/
theorem Action.after_zeroCell (o : Action) (s : State) : (o.after s).regs.get zeroReg = s.regs.get zeroReg := by
  cases o with
  | load | alu | swap | push | pushf | popf | call | ret => exact writeReg_get_zero ..
  | pop rD => exact (writeReg_get_zero _ rD _).trans (writeReg_get_zero ..)
  | shift t rD rA n =>
    obtain ⟨-, h⟩ | ⟨-, h⟩ := State.shift_cases s t rD rA n
    · rw [Action.after, h, State.advance_regs]
    · rw [Action.after, h]
      exact writeReg_get_zero ..
  | store | aluStore | jump => rfl

/-- Two states whose registers read alike have the same register file, if the unused cells of register 0 agree. -/
theorem State.regs_ext {s t : State} (hzero : t.regs.get zeroReg = s.regs.get zeroReg)
    (h : ∀ r, r ≠ zeroReg → t.reg r = s.reg r) : t.regs = s.regs := by
  refine Vector.ext fun k hk => ?_
  by_cases hr : (⟨k, hk⟩ : Reg) = zeroReg
  · rw [← hr] at hzero
    exact hzero
  · have hread := h ⟨k, hk⟩ hr
    simp only [State.reg, readReg, hr, if_false] at hread
    exact hread

/-! ## Program counter, memory space, draws and flags -/

/-- Every action but a taken jump, a call and a return goes on at the next instruction (R25). -/
theorem Action.after_pc {o : Action} {s : State} (hcall : o.isCallOrReturn = false)
    (hjump : ∀ c, o.jumpCond = some c → condHolds c s.flags = false) : (o.after s).pc = s.nextPc := by
  cases o with
  | jump c target =>
    have hc : condHolds c s.flags = false := hjump c rfl
    simp [Action.after, State.jump_eq, hc]
  | shift t rD rA n =>
    obtain ⟨-, h⟩ | ⟨-, h⟩ := State.shift_cases s t rD rA n
    · exact congrArg State.pc h
    · exact congrArg State.pc h
  | call | ret => cases hcall
  | _ => rfl

/-- Only calls and returns write the memory space (R31, R310). -/
theorem Action.after_ms (o : Action) (s : State) : (o.after s).ms = o.space s.ms := by
  cases o with
  | shift t rD rA n =>
    obtain ⟨-, h⟩ | ⟨-, h⟩ := State.shift_cases s t rD rA n
    · rw [Action.after, h]
      rfl
    · rw [Action.after, h]
      rfl
  | _ => rfl

/-- An ALU operation in the last row of R28 leaves the flags (R110). -/
theorem aluFlags_of_unchanged {f : AluOp} (a b : Word) (F : Flags) (d : Nat) (hf : aluFlagEffect f = .unchanged) :
    aluFlags f a b F d = F := by
  cases f with
  | mov => rfl
  | _ => cases hf

/-- An ALU operation in the logic row of R28 has the flags of its result, with `C` and `V` drawn (R111 to R113). -/
theorem aluFlags_of_logic {f : AluOp} (a b : Word) (F : Flags) (d : Nat) (hf : aluFlagEffect f = .logic) :
    aluFlags f a b F d = logicFlags (aluResult f a b F.c) d := by
  cases f with
  | and | or | xor => rfl
  | _ => cases hf

theorem aluFlagEffect_ne_popped (f : AluOp) : aluFlagEffect f ≠ .popped := by
  cases f <;> decide

theorem shiftFlagEffect_of_ne {n : BitVec 4} (hn : n ≠ 0) : shiftFlagEffect n = .logic := if_neg hn

theorem shiftFlagEffect_ne_popped (n : BitVec 4) : shiftFlagEffect n ≠ .popped := by
  by_cases hn : n = 0
  · subst hn
    decide
  · rw [shiftFlagEffect_of_ne hn]
    decide

/-- The draws of an ALU operation are those of its row of R28. -/
theorem aluDraws_eq (f : AluOp) : aluDraws f = (aluFlagEffect f).draws := by
  cases f <;> rfl

/-- Every action counts its draws (log 10). -/
theorem Action.after_draws (o : Action) (s : State) : (o.after s).draws = s.draws + o.draws := by
  cases o with
  | alu f | aluStore f => exact congrArg (s.draws + ·) (aluDraws_eq f)
  | shift t rD rA n =>
    obtain ⟨rfl, h⟩ | ⟨hn, h⟩ := State.shift_cases s t rD rA n
    · rw [Action.after, h]
      rfl
    · rw [Action.after, h]
      exact congrArg (s.draws + FlagEffect.draws ·) (shiftFlagEffect_of_ne hn).symm
  | _ => rfl

/-- An action in the last row of R28 leaves the flags. -/
theorem Action.after_flags_unchanged {o : Action} (s : State) (ho : o.flagEffect = .unchanged) :
    (o.after s).flags = s.flags := by
  cases o with
  | alu | aluStore => exact aluFlags_of_unchanged _ _ _ _ ho
  | shift t rD rA n =>
    obtain ⟨-, h⟩ | ⟨hn, -⟩ := State.shift_cases s t rD rA n
    · rw [Action.after, h, State.advance_flags]
    · rw [Action.flagEffect, shiftFlagEffect_of_ne hn] at ho
      cases ho
  | popf => cases ho
  | _ => rfl

/-- An action in the logic row of R28 takes `C` and `V` from the next two draws. -/
theorem Action.after_flags_logic {o : Action} (s : State) (ho : o.flagEffect = .logic) :
    (o.after s).flags.c = Config.drawBit s.draws ∧ (o.after s).flags.v = Config.drawBit (s.draws + 1) := by
  suffices hflags : ∃ r, (o.after s).flags = logicFlags r s.draws by
    obtain ⟨r, hr⟩ := hflags
    rw [hr]
    exact ⟨rfl, rfl⟩
  cases o with
  | alu | aluStore => exact ⟨_, aluFlags_of_logic _ _ _ _ ho⟩
  | shift t rD rA n =>
    obtain ⟨hn, -⟩ | ⟨-, h⟩ := State.shift_cases s t rD rA n
    · rw [Action.flagEffect, shiftFlagEffect, if_pos hn] at ho
      cases ho
    · exact ⟨_, congrArg State.flags h⟩
  | _ => cases ho

/-- `popf` takes all four flags from the word at the old `sp` (R246). -/
theorem Action.after_flags_popped {o : Action} (s : State) (ho : o.flagEffect = .popped) :
    (o.after s).flags = wordToFlags Config.flagsLayout (s.ramWord s.popAddress) := by
  cases o with
  | popf => rfl
  | alu f | aluStore f => exact absurd ho (aluFlagEffect_ne_popped f)
  | shift t rD rA n => exact absurd ho (shiftFlagEffect_ne_popped n)
  | _ => cases ho

/-- An action that does not read the flags does the same from any others; where it writes them it writes the same (R29). -/
theorem Action.after_setFlags {o : Action} (s : State) (F : Flags) (ho : o.readsFlags = false) :
    o.after (s.setFlags F) =
      (o.after s).setFlags (if o.flagEffect = .unchanged then F else (o.after s).flags) := by
  cases o with
  | alu f | aluStore f =>
    cases f with
    | addc | subb => cases ho
    | _ => rfl
  | shift t rD rA n =>
    by_cases hn : n = 0
    · subst hn
      rfl
    · simp only [Action.flagEffect, shiftFlagEffect_of_ne hn, Action.after, State.shift_nonzero _ t rD rA hn]
      rfl
  | pushf | jump => cases ho
  | _ => rfl

end Sys2Proof.Machine
end

section
/-! PROOF. The statements of the family "architectural state" (10_state.md of the spec). -/

namespace Sys2Proof.Machine

/-! ## The invariant -/

/-- A step that answers a next state fetched two words, decoded them and completed the instruction (R45, R46, R74). -/
theorem stepWith_eq_next {m : OpcodeAssignment} {s t : State} :
    stepWith m s = .next t ↔
      ∃ op arg i, s.fetch = .ok (op, arg) ∧ decodeWith m op arg = .ok i ∧ exec i s = .next t := by
  unfold stepWith
  cases hf : s.fetch with
  | error r => simp
  | ok words =>
    obtain ⟨op, arg⟩ := words
    cases hd : decodeWith m op arg with
    | error why => simp [hd]
    | ok i => simp [hd]

/-- Every action keeps the invariant: RAM takes at most one write at a 16-bit address, ROM none, the cell of register 0
none. -/
theorem Action.after_inv (o : Action) {s : State} (h : s.Inv) : (o.after s).Inv := by
  obtain ⟨hram, hrom, hzero⟩ := h
  refine ⟨?_, ?_, ?_⟩
  · rw [Action.after_ram]
    cases o.stored s with
    | none => exact hram
    | some p => exact Memory.wf_write_word s.ram p.1 p.2 hram
  · rw [(o.after_frame s).rom]
    exact hrom
  · rw [Action.after_zeroCell]
    exact hzero

theorem exec_inv {i : Instr} {s t : State} (h : s.Inv) (he : exec i s = .next t) : t.Inv := by
  obtain ⟨-, rfl⟩ := exec_eq_next.1 he
  exact (action i s).after_inv h

theorem stepWith_inv {m : OpcodeAssignment} {s t : State} (h : s.Inv) (hs : stepWith m s = .next t) : t.Inv := by
  obtain ⟨op, arg, i, -, -, he⟩ := stepWith_eq_next.1 hs
  exact exec_inv h he

/-- Settles O51: a step is the execution of one instruction, an instruction that completes is its action, and every action
keeps the invariant. -/
theorem stepKeepsInvariant : Obligations.StepKeepsInvariant :=
  ⟨fun _ _ _ h hs => stepWith_inv h hs, fun _ _ h hs => stepWith_inv h hs⟩

/-- Settles O52: nothing is written in RAM at reset, and the cell of register 0 is the literal 0. -/
theorem resetInvariant : Obligations.ResetInvariant := by
  have hreset : ∀ (entry : Word) (image : Memory 32) (map : List RamRegion), image.wf = true →
      (State.resetWith entry image map).Inv := fun entry image map h =>
    have ⟨hram, hrom⟩ := resetWith_memories_wf entry map h
    ⟨hram, hrom, rfl⟩
  exact ⟨hreset, hreset _ _ _ rfl⟩

/-! ## Frames -/

theorem exec_frame {i : Instr} {s t : State} (he : exec i s = .next t) :
    SameBut (writtenRegs i) (storeAddress i s).toList s t := by
  obtain ⟨-, rfl⟩ := exec_eq_next.1 he
  rw [writtenRegs_eq i s, storeAddress_eq]
  exact (action i s).after_frame s

/-- Settles O48, from the frame of the instruction's action. -/
theorem frameOfEveryInstruction : Obligations.FrameOfEveryInstruction := fun _ _ _ he => exec_frame he

/-- Settles O15: registers 1 to 15 are outside the frame of an instruction whose only destination is register 0, and no
action writes the cell of register 0. -/
theorem registerZero : Obligations.RegisterZero := by
  refine ⟨State.reg_zeroReg, fun i s t he hi => ?_⟩
  have hframe := exec_frame he
  rw [hi] at hframe
  obtain ⟨-, rfl⟩ := exec_eq_next.1 he
  exact State.regs_ext (Action.after_zeroCell _ s) fun r hr => hframe.regs r (List.mem_singleton.not.2 hr)

/-! ## Program counter and memory space -/

/-- Settles O44: the action of such an instruction is no taken jump, call or return either. -/
theorem sequentialAdvance : Obligations.SequentialAdvance := by
  intro i s t he hcall hjump
  obtain ⟨-, rfl⟩ := exec_eq_next.1 he
  rw [isCallOrReturn_eq i s] at hcall
  rw [jumpCond_eq i s] at hjump
  rw [Action.after_pc hcall hjump, State.nextPc_eq, State.instrSize]
  cases s.ms <;> rfl

/-- Settles O45, from the memory space the instruction's action leaves. -/
theorem memSpaceWriters : Obligations.MemSpaceWriters := by
  intro i s t he
  obtain ⟨-, rfl⟩ := exec_eq_next.1 he
  rw [msAfter_eq, Action.after_ms]

/-! ## Flags -/

/-- Settles O46, row by row of R28 for the instruction's action. -/
theorem flagWriters : Obligations.FlagWriters := by
  intro i s t he
  obtain ⟨-, rfl⟩ := exec_eq_next.1 he
  rw [drawCount_eq i s, flagEffect_eq i s]
  exact ⟨Action.after_draws _ s, Action.after_flags_unchanged s, Action.after_flags_logic s,
    Action.after_flags_popped s⟩

/-- Settles O47: neither the checks of an instruction nor the words its action takes depend on the flags, and an action that
does not read them does the same from any others. -/
theorem flagReaders : Obligations.FlagReaders := by
  intro i s t F hi he
  obtain ⟨hc, rfl⟩ := exec_eq_next.1 he
  rw [readsFlags_eq i s] at hi
  refine exec_eq_next.2 ⟨completes_setFlags F hc, ?_⟩
  rw [action_setFlags, flagEffect_eq i s]
  exact Action.after_setFlags s F hi

/-- The flags of a logic result as numbers: `Z` is "the result is 0", `S` its bit 15 (R28). -/
theorem logicFlags_eq (r : Word) (d : Nat) :
    logicFlags r d = ⟨decide (r.toNat = 0), Config.drawBit d, Config.drawBit (d + 1), r.getLsbD 15⟩ := by
  have hz : (r == 0) = decide (r.toNat = 0) := by
    rw [Bool.eq_iff_iff, beq_iff_eq, decide_eq_true_eq, BitVec.toNat_eq]
    rfl
  rw [logicFlags, hz, BitVec.msb_eq_getLsbD_last]

/-- Settles O20: the bits are those of the bit-vector operations, the flags those of the logic row of R28. -/
theorem logicAndMove : Obligations.LogicAndMove := by
  intro a b F d
  refine ⟨fun _ => BitVec.getLsbD_and, fun _ => BitVec.getLsbD_or, fun _ => BitVec.getLsbD_xor, rfl, rfl, rfl,
    fun f hf => ?_⟩
  have heffect : aluFlagEffect f = .logic := by
    obtain rfl | rfl | rfl := hf <;> rfl
  rw [aluFlags_of_logic a b F d heffect, aluDraws_eq, heffect]
  exact ⟨logicFlags_eq .., rfl⟩

/-! ## The FLAGS word (R30) -/

theorem posZ_ne_posC (l : FlagsLayout) : l.posZ ≠ l.posC := Fin.ne_succAbove _ _

theorem posZ_ne_posV (l : FlagsLayout) : l.posZ ≠ l.posV := Fin.ne_succAbove _ _

theorem posZ_ne_posS (l : FlagsLayout) : l.posZ ≠ l.posS := Fin.ne_succAbove _ _

theorem posC_ne_posV (l : FlagsLayout) : l.posC ≠ l.posV := fun h =>
  Fin.ne_succAbove _ _ (Fin.succAbove_right_injective h)

theorem posC_ne_posS (l : FlagsLayout) : l.posC ≠ l.posS := fun h =>
  Fin.ne_succAbove _ _ (Fin.succAbove_right_injective h)

theorem posV_ne_posS (l : FlagsLayout) : l.posV ≠ l.posS := fun h =>
  Fin.ne_succAbove _ _ (Fin.succAbove_right_injective (Fin.succAbove_right_injective h))

/-- Four distinct positions are the positions of a layout: `Fin.succAbove p` goes through exactly the positions other than
`p`, so the three nested ones go through exactly those not yet taken. -/
theorem exists_layout {z c v s : Fin 16} (h : [z, c, v, s].Nodup) :
    ∃ l : FlagsLayout, l.posZ = z ∧ l.posC = c ∧ l.posV = v ∧ l.posS = s := by
  simp only [List.nodup_cons, List.mem_cons, List.not_mem_nil, or_false, not_or] at h
  obtain ⟨⟨hzc, hzv, hzs⟩, ⟨hcv, hcs⟩, hvs, -⟩ := h
  obtain ⟨c, rfl⟩ := Fin.exists_succAbove_eq (Ne.symm hzc)
  obtain ⟨v, rfl⟩ := Fin.exists_succAbove_eq (Ne.symm hzv)
  obtain ⟨s, rfl⟩ := Fin.exists_succAbove_eq (Ne.symm hzs)
  rw [Fin.succAbove_right_inj] at hcv hcs hvs
  obtain ⟨v, rfl⟩ := Fin.exists_succAbove_eq (Ne.symm hcv)
  obtain ⟨s, rfl⟩ := Fin.exists_succAbove_eq (Ne.symm hcs)
  rw [Fin.succAbove_right_inj] at hvs
  obtain ⟨s, rfl⟩ := Fin.exists_succAbove_eq (Ne.symm hvs)
  exact ⟨⟨z, c, v, s⟩, rfl, rfl, rfl, rfl⟩

/-- Settles O36, from the six inequalities and `exists_layout`. -/
theorem layoutsAreDistinctPositions : Obligations.LayoutsAreDistinctPositions :=
  ⟨fun l => by simp [posZ_ne_posC, posZ_ne_posV, posZ_ne_posS, posC_ne_posV, posC_ne_posS, posV_ne_posS],
    fun _ _ _ _ => exists_layout⟩

/-- Reading back a FLAGS word gives the flags written (R30). -/
theorem wordToFlags_flagsToWord (l : FlagsLayout) (F : Flags) (w : Word) : wordToFlags l (flagsToWord l F w) = F := by
  simp only [wordToFlags, flagsToWord, getLsbD_putBit, posZ_ne_posC, posZ_ne_posV, posZ_ne_posS, posC_ne_posV,
    posC_ne_posS, posV_ne_posS, if_true, if_false]

/-- A bit at no flag's position is that of the filling word (R30). -/
theorem getLsbD_flagsToWord_other {l : FlagsLayout} (F : Flags) (w : Word) {k : Fin 16} (hz : k ≠ l.posZ)
    (hc : k ≠ l.posC) (hv : k ≠ l.posV) (hs : k ≠ l.posS) :
    (flagsToWord l F w).getLsbD k.val = w.getLsbD k.val := by
  simp only [flagsToWord, getLsbD_putBit, hz, hc, hv, hs, if_false]

/-- Settles O35: the four bits are put at distinct positions, so none overwrites another. -/
theorem flagsWordRoundTrip : Obligations.FlagsWordRoundTrip := fun l F w =>
  ⟨wordToFlags_flagsToWord l F w, fun _ => getLsbD_flagsToWord_other F w⟩

/-- Settles O37: `popf` finds `sp` at the word that `pushf` stored, and reading that word back gives the flags saved. -/
theorem popfRestoresFlags : Obligations.PopfRestoresFlags := by
  intro s t u he hsp hword hmap
  obtain ⟨⟨-, hstorage, -⟩, ht⟩ := exec_eq_next.1 he
  have htop : t.popAddress = s.pushAddress := by
    rw [← ht]
    exact State.push_reg_sp s s.flagsWord
  have hsaved : t.ramWord s.pushAddress = s.flagsWord := by
    rw [← ht]
    exact State.push_word s s.flagsWord
  have hsp' : u.popAddress = s.pushAddress := hsp.trans htop
  have hpopped : u.popped = s.flagsWord := by
    rw [htop] at hword
    rw [State.popped, hsp', hword, hsaved]
  have hkind : u.ramKind u.popAddress = .storage := by
    rw [hsp', State.ramKind, hmap, ← ht]
    exact hstorage _ rfl
  refine ⟨_, State.popToFlags_eq_next.2 ⟨hkind, rfl⟩, ?_, ?_⟩
  · rw [State.advance_flags, State.setFlags_flags, hpopped]
    exact wordToFlags_flagsToWord ..
  · have hback : u.reg spReg = s.pushAddress := hsp'
    rw [State.reg_advance, State.reg_setFlags, State.dropTop_reg_sp, hback]
    exact BitVec.sub_add_cancel ..

/-! ## Reset -/

/-- At reset registers 1 to 15 hold their free values (R38; log 3). -/
theorem State.resetWith_reg (entry : Word) (image : Memory 32) (map : List RamRegion) {r : Reg} (hr : r ≠ zeroReg) :
    (State.resetWith entry image map).reg r = Config.resetRegister r.val := by
  fin_cases r
  · exact absurd rfl hr
  all_goals rfl

/-- The first fetch after reset is the image's word at the entry point (R341, R343). -/
theorem State.fetch_resetWith {entry : Word} {image : Memory 32} (map : List RamRegion) {I : RomWord}
    (h : image.read entry.toNat = some I) :
    (State.resetWith entry image map).fetch = .ok (I.extractLsb' 16 16, I.extractLsb' 0 16) := by
  have hword : (State.resetWith entry image map).romWord (State.resetWith entry image map).pc = some I := h
  simp only [State.fetch, State.resetWith_ms, State.fetchFromRom, hword]
  rfl

/-- Settles O53: all but the registers and the fetch is what `State.resetWith` lists. -/
theorem resetValues : Obligations.ResetValues :=
  ⟨fun entry image map => ⟨State.reg_zeroReg _, rfl, rfl, fun _ => State.resetWith_reg entry image map, rfl,
    fun _ => ⟨rfl, rfl, rfl⟩, fun _ => State.fetch_resetWith map⟩, rfl, fun _ => ⟨rfl, rfl⟩⟩

end Sys2Proof.Machine
end

section
/-! PROOF. The statements of the family "memory" (20_memory.md of the spec). A store is read back through the RAM of the
action that made it (`Action.after_ramWord`); what stops an instruction is read off its checks (`exec_eq_onStorage`). -/

namespace Sys2Proof.Machine

/-! ## Stores -/

/-- An action that stores `v` at `a` leaves `v` there and every other RAM word as it was (R42). -/
theorem Action.after_ramWord {o : Action} {s : State} {a v : Word} (ho : o.stored s = some (a, v)) (b : Word) :
    (o.after s).ramWord b = if b = a then v else s.ramWord b := by
  have hram : (o.after s).ram = (s.setRam a v).ram := by
    rw [Action.after_ram, ho]
    rfl
  have hword : (o.after s).ramWord b = (s.setRam a v).ramWord b := by
    simp only [State.ramWord, State.ramCell, hram]
  rw [hword]
  split
  case isTrue hb => rw [hb, State.ramWord_setRam_same]
  case isFalse hb => exact State.ramWord_setRam_other s v hb

/-- An instruction stores at `a` exactly where its action stores some word there, and that is `storedWord`. -/
theorem storeAddress_eq_some {i : Instr} {s : State} {a : Word} :
    storeAddress i s = some a ↔ ∃ v, storedWord i s = some v ∧ (action i s).stored s = some (a, v) := by
  rw [storeAddress_eq, storedWord_eq]
  cases (action i s).stored s with
  | none => simp
  | some p =>
    obtain ⟨b, w⟩ := p
    simp

theorem exec_rom {i : Instr} {s t : State} (he : exec i s = .next t) : t.rom = s.rom := (exec_frame he).rom

/-- Settles O11: a fetch reads the same RAM as the action wrote, and no action writes ROM. -/
theorem storeSeenByNextFetch : Obligations.StoreSeenByNextFetch := by
  refine ⟨fun i s t a he ha => ?_, fun i s t he a => ?_⟩
  · obtain ⟨v, hv, hstored⟩ := storeAddress_eq_some.1 ha
    obtain ⟨-, rfl⟩ := exec_eq_next.1 he
    have hword := Action.after_ramWord hstored
    refine ⟨v, hv, (hword a).trans (if_pos rfl), fun hms hop harg => ?_⟩
    rw [State.fetch_ram hms hop harg, hword, hword]
  · rw [State.romWord, exec_rom he, State.romWord]

/-- Settles O13: the guard decides, and the write is one word of RAM. -/
theorem ramWriteRule : Obligations.RamWriteRule := fun s a v =>
  ⟨fun h => ⟨_, State.onStorage_storage h, State.ramWord_setRam_same s a v,
      ⟨rfl, rfl, rfl, rfl, (SameBut.refl _ _ s).setRam v (List.mem_singleton.2 rfl)⟩⟩,
    State.onStorage_device, State.onStorage_absent⟩

/-! ## ALU operations on memory -/

/-- The memory form of `mov` is the ALU operation `mov` on memory, which draws nothing and keeps the flags (R175). -/
theorem State.movToRam_eq_aluToRam (s : State) (ea b : Word) : s.movToRam ea b = s.aluToRam .mov ea b := rfl

theorem exec_aluMD (f : AluOp) (addr : Word) (rA : Reg) (s : State) :
    exec (.aluMD f addr rA) s = s.onStorage addr (.next (s.aluToRam f addr (s.reg rA))) := by
  cases f with
  | mov =>
    rw [← State.movToRam_eq_aluToRam]
    rfl
  | _ => rfl

theorem exec_aluMN (f : AluOp) (rA rB : Reg) (s : State) :
    exec (.aluMN f rA rB) s = s.onStorage (s.reg rA) (.next (s.aluToRam f (s.reg rA) (s.reg rB))) := by
  cases f with
  | mov =>
    rw [← State.movToRam_eq_aluToRam]
    rfl
  | _ => rfl

theorem exec_aluMX (f : AluOp) (rA : Reg) (imm : Word) (rB : Reg) (s : State) :
    exec (.aluMX f rA imm rB) s =
      s.onStorage (s.indexed rA imm) (.next (s.aluToRam f (s.indexed rA imm) (s.reg rB))) := by
  cases f with
  | mov =>
    rw [← State.movToRam_eq_aluToRam]
    rfl
  | _ => rfl

/-- An ALU operation on a storage address completes with its effect (R174). -/
theorem State.onStorage_aluToRam {s : State} {ea : Word} (f : AluOp) (b : Word) (h : s.ramKind ea = .storage) :
    ∃ t, s.onStorage ea (.next (s.aluToRam f ea b)) = .next t ∧ AluToRamEffect f ea b s t :=
  ⟨_, State.onStorage_storage h, State.aluToRam_effect s f ea b⟩

/-- Settles O17: each of the three forms is the ALU operation at its own effective address. -/
theorem aluMemoryDestination : Obligations.AluMemoryDestination := by
  intro f s rA rB imm addr
  rw [exec_aluMD, exec_aluMN, exec_aluMX]
  exact ⟨State.onStorage_aluToRam f _, State.onStorage_aluToRam f _, State.onStorage_aluToRam f _⟩

/-! ## `peek` -/

theorem exec_peek (rD rA : Reg) (imm : Word) (half : RomHalf) (s : State) :
    exec (.peek rD rA imm half) s = s.peekAt rD (s.reg rA + imm) half := rfl

theorem State.peekAt_unpopulated {s : State} {ea : Word} (rD : Reg) (half : RomHalf) (h : s.romWord ea = none) :
    s.peekAt rD ea half = .refused (.romUnpopulated ea) := by
  simp only [State.peekAt, h]

/-- Settles O14: at a populated address `peek` is a load of the half, elsewhere it is refused, and no instruction writes
ROM. -/
theorem romReadRule : Obligations.RomReadRule := by
  refine ⟨fun s rD rA imm half I hI => ?_, fun s rD rA imm half hnone => ?_, fun _ _ _ => exec_rom⟩
  · have hload := State.movToReg_effect s rD 0 (romHalf I half)
    exact ⟨_, State.peekAt_eq_next.2 ⟨I, hI, rfl⟩, hload.result, hload.others⟩
  · rw [exec_peek, State.peekAt_unpopulated rD half hnone]

/-! ## What completes and what is refused -/

/-- Settles O49: `Completes` is the conjunction of the instruction's three checks. -/
theorem completesExactly : Obligations.CompletesExactly := fun _ _ =>
  ⟨fun ⟨_, he⟩ => (exec_eq_next.1 he).1, fun hc => ⟨_, exec_eq_next.2 ⟨hc, rfl⟩⟩⟩

/-- A well-formed instruction that accesses RAM goes through the check of its address first (R50). -/
theorem exec_eq_onStorage {i : Instr} {s : State} {a : Word} (hi : i.wellFormed = true)
    (ha : ramAddress i s = some a) :
    exec i s = s.onStorage a (s.onRom (romAddress i s) (.next ((action i s).after s))) := by
  have hlegal : i.illFormed? = none := Option.isNone_iff_eq_none.1 hi
  rw [exec_eq_guarded, guarded, hlegal, ha]
  rfl

/-- Settles O50, by the check of the address. -/
theorem outsideStorageRefused : Obligations.OutsideStorageRefused := by
  intro i s a hi ha
  rw [exec_eq_onStorage hi ha]
  exact ⟨State.onStorage_device, State.onStorage_absent⟩

/-! ## Fetch -/

theorem State.instrSize_rom {s : State} (h : s.ms = .rom) : s.instrSize = 1 := by
  rw [State.instrSize, h]

theorem State.instrSize_ram {s : State} (h : s.ms = .ram) : s.instrSize = 2 := by
  rw [State.instrSize, h]

theorem State.fetch_eq_fetchFromRom {s : State} (h : s.ms = .rom) : s.fetch = s.fetchFromRom := by
  rw [State.fetch, h]

theorem State.fetch_eq_fetchFromRam {s : State} (h : s.ms = .ram) : s.fetch = s.fetchFromRam := by
  rw [State.fetch, h]

theorem State.fetchFromRom_populated {s : State} {I : RomWord} (h : s.romWord s.pc = some I) :
    s.fetchFromRom = .ok (opWord I, argWord I) := by
  rw [State.fetchFromRom, h]

theorem State.fetchFromRom_unpopulated {s : State} (h : s.romWord s.pc = none) :
    s.fetchFromRom = .error (.romUnpopulated s.pc) := by
  rw [State.fetchFromRom, h]

theorem State.fetchRamWord_storage {s : State} {a : Word} (h : s.ramKind a = .storage) :
    s.fetchRamWord a = .ok (s.ramWord a) := by
  rw [State.fetchRamWord, h]

theorem State.fetchRamWord_device {s : State} {a : Word} (h : s.ramKind a = .device) :
    s.fetchRamWord a = .error (.ramDevice a) := by
  rw [State.fetchRamWord, h]

theorem State.fetchRamWord_absent {s : State} {a : Word} (h : s.ramKind a = .absent) :
    s.fetchRamWord a = .error (.ramAbsent a) := by
  rw [State.fetchRamWord, h]

/-- A fetch from RAM is refused for its opcode word before the argument word is read. -/
theorem State.fetchFromRam_opcode_error {s : State} {r : Refusal} (h : s.fetchRamWord s.pc = .error r) :
    s.fetchFromRam = .error r := by
  rw [State.fetchFromRam, h]

/-- With its opcode word in storage, a fetch from RAM is refused for its argument word. -/
theorem State.fetchFromRam_argument_error {s : State} {r : Refusal} (hop : s.ramKind s.pc = .storage)
    (h : s.fetchRamWord (s.pc + 1) = .error r) : s.fetchFromRam = .error r := by
  rw [State.fetchFromRam, State.fetchRamWord_storage hop, h]

/-- Settles O9: the fetch is the ROM word at `pc` cut in two. -/
theorem fetchFromRom : Obligations.FetchFromRom := by
  intro s hms
  rw [State.fetch_eq_fetchFromRom hms]
  exact ⟨State.instrSize_rom hms, fun _ => State.fetchFromRom_populated, State.fetchFromRom_unpopulated⟩

/-- Settles O10: the opcode word is read first, so its refusal comes before that of the argument word. -/
theorem fetchFromRam : Obligations.FetchFromRam := by
  intro s hms
  refine ⟨State.instrSize_ram hms, State.fetch_ram hms, ?_⟩
  rw [State.fetch_eq_fetchFromRam hms]
  exact ⟨fun h => State.fetchFromRam_opcode_error (State.fetchRamWord_device h),
    fun h => State.fetchFromRam_opcode_error (State.fetchRamWord_absent h),
    fun hop h => State.fetchFromRam_argument_error hop (State.fetchRamWord_device h),
    fun hop h => State.fetchFromRam_argument_error hop (State.fetchRamWord_absent h)⟩

/-! ## Steps -/

/-- Where the words at `pc` decode to an instruction, a step is that instruction's execution (R45, R46, R74). -/
theorem stepWith_of_holds {m : OpcodeAssignment} {s : State} {op arg : Word} {i : Instr} (h : Holds s op arg)
    (hd : decodeWith m op arg = .ok i) : stepWith m s = exec i s := by
  simp only [stepWith, State.fetch_of_holds h, hd]

/-- Settles O7; the step of the core is the case of the default numbers. -/
theorem stepRunsDecoded : Obligations.StepRunsDecoded :=
  ⟨fun _ _ _ _ _ => stepWith_of_holds, fun _ _ _ _ => stepWith_of_holds⟩

/-- An instruction is the join of its two halves (R7). -/
theorem joinWords_opWord_argWord (I : RomWord) : joinWords (opWord I) (argWord I) = I :=
  BitVec.extractLsb'_append_extractLsb' (w := 16) (len := 16)

/-- Two neighbouring addresses differ, also across the wrap at 2^16 (R8). -/
theorem ne_add_one (a : Word) : a ≠ a + 1 := by
  bv_omega

theorem State.placeAtPc_rom {s : State} (h : s.ms = .rom) (I : RomWord) :
    s.placeAtPc I = { s with rom := s.rom.write s.pc.toNat I } := by
  rw [State.placeAtPc, h]

theorem State.placeAtPc_ram {s : State} (h : s.ms = .ram) (I : RomWord) :
    s.placeAtPc I = (s.setRam s.pc (opWord I)).setRam (s.pc + 1) (argWord I) := by
  rw [State.placeAtPc, h]

/-- An instruction placed at `pc` is held there: in ROM always, in RAM where both its words are storage (R45 to R47). -/
theorem holds_placeAtPc (s : State) (I : RomWord)
    (h : s.ms = .ram → s.ramKind s.pc = .storage ∧ s.ramKind (s.pc + 1) = .storage) :
    Holds (s.placeAtPc I) (opWord I) (argWord I) := by
  cases hms : s.ms with
  | rom =>
    rw [State.placeAtPc_rom hms, Holds, joinWords_opWord_argWord]
    exact .inl ⟨hms, Memory.read_write_same ..⟩
  | ram =>
    obtain ⟨hop, harg⟩ := h hms
    have hopWord : ((s.setRam s.pc (opWord I)).setRam (s.pc + 1) (argWord I)).ramWord s.pc = opWord I := by
      rw [State.ramWord_setRam_other _ _ (ne_add_one s.pc), State.ramWord_setRam_same]
    rw [State.placeAtPc_ram hms]
    exact .inr ⟨hms, hop, harg, hopWord, State.ramWord_setRam_same ..⟩

theorem decode_of_decodeTableWord {nbits w : Nat} {i : Instr} (h : decodeTableWord nbits w = some i) :
    decode (opWord (tableWord nbits w)) (argWord (tableWord nbits w)) = .ok i := by
  unfold decodeTableWord at h
  split at h
  case h_1 j hd =>
    cases h
    exact hd
  case h_2 => cases h

/-- Settles O12: the placed words are the ones the step fetches. -/
theorem placedInstructionRuns : Obligations.PlacedInstructionRuns := fun s w _ hd hram =>
  stepWith_of_holds (holds_placeAtPc s (tableWord 32 w) hram) (decode_of_decodeTableWord hd)

end Sys2Proof.Machine
end

section
/-! PROOF. The rows of the opcode map (R70) as a type of their own. An instruction is an opcode together with `op[7:4]`,
`op[3:0]` and the argument word (`Opcode.instr`); an opcode is known from the high byte of the opcode word
(`Opcode.Selects`) and says which bits of the other fields the hardware uses. -/

namespace Sys2Proof

open Machine (ShiftOp)

/-! ## The rows of the opcode map -/

/-- The eight operand forms of an ALU instruction (R101 to R105, R171 to R173). -/
inductive AluForm where
  | rr | ri | rd | rn | rx | md | mn | mx

/-- The opcode of an instruction: its row of the opcode map, without the operands outside the high byte (R70). -/
inductive Opcode where
  /-- An ALU operation in a form; `FFF` is the operation's number (R67). -/
  | alu (w : AluForm) (f : AluOp)
  /-- A shift, whose amount stands in the high byte (R211 to R213). -/
  | shift (t : ShiftOp) (n : BitVec 4)
  | movb | swap | peek (half : RomHalf)
  | pushR | pushI | pushf | pop | popf
  /-- A jump on a condition, register form; `FFF` is the condition's number (R68, R262). -/
  | jumpR (c : Cond)
  /-- A jump on a condition, immediate form (R68, R263). -/
  | jumpI (c : Cond)
  | callR | callI | syscallR | syscallI | enterR | enterI | ret | sysret | exit

/-- All eight ALU forms. -/
def AluForm.all : List AluForm := [.rr, .ri, .rd, .rn, .rx, .md, .mn, .mx]

/-- `op[15:12]` of an ALU form (R101 to R105, R171 to R173). -/
def AluForm.major : AluForm → BitVec 4
  | .rr | .ri => 0x0#4
  | .rd | .rn => 0x4#4
  | .rx => 0x5#4
  | .md | .mn => 0x6#4
  | .mx => 0x7#4

/-- `op[11]` of an ALU form; 0 where it is an `X` bit. -/
def AluForm.bit : AluForm → Bool
  | .ri | .rn | .mn => true
  | .rr | .rd | .rx | .md | .mx => false

/-- The bits of the high byte that the hardware uses: the indexed forms ignore `op[11]` (R65). -/
def AluForm.usedByte : AluForm → BitVec 8
  | .rx | .mx => 0xF7#8
  | .rr | .ri | .rd | .rn | .md | .mn => 0xFF#8

/-- The instruction of an ALU form with `op[7:4]`, `op[3:0]` and the argument word given. -/
def AluForm.instr (w : AluForm) (f : AluOp) (d a : BitVec 4) (arg : Word) : Instr :=
  match w with
  | .rr => .aluRR f (regOf d) (regOf a) (regOf (argB arg))
  | .ri => .aluRI f (regOf d) (regOf a) arg
  | .rd => .aluRD f (regOf d) (regOf a) arg
  | .rn => .aluRN f (regOf d) (regOf a) (regOf (argB arg))
  | .rx => .aluRX f (regOf d) (regOf a) arg
  | .md => .aluMD f arg (regOf a)
  | .mn => .aluMN f (regOf a) (regOf (argB arg))
  | .mx => .aluMX f (regOf a) arg (regOf d)

/-- `op[15:12]` of a shift (R211 to R213). -/
def shiftMajor : ShiftOp → BitVec 4
  | .sll => 0x1#4
  | .srl => 0x2#4
  | .sra => 0x3#4

/-- The shift of each kind. -/
def Instr.shift (t : ShiftOp) (rD rA : Reg) (n : BitVec 4) : Instr :=
  match t with
  | .sll => .sll rD rA n
  | .srl => .srl rD rA n
  | .sra => .sra rD rA n

/-- The high byte of an opcode, `X` bits 0 (R70). -/
def Opcode.byte (m : OpcodeAssignment) : Opcode → BitVec 8
  | .alu w f => w.major ++ packFunct w.bit (m.aluFunct f)
  | .shift t n => shiftMajor t ++ n
  | .movb => 0x80#8
  | .swap => 0x81#8
  | .peek .lower => 0x82#8
  | .peek .upper => 0x83#8
  | .pushR => 0x84#8
  | .pushI => 0x85#8
  | .pushf => 0x86#8
  | .pop => 0x87#8
  | .popf => 0x88#8
  | .jumpR c => 0xC#4 ++ packFunct false (m.jmpFunct c)
  | .jumpI c => 0xC#4 ++ packFunct true (m.jmpFunct c)
  | .callR => 0xD0#8
  | .callI => 0xD1#8
  | .syscallR => m.syscallR
  | .syscallI => m.syscallI
  | .enterR => m.enterR
  | .enterI => m.enterI
  | .ret => 0xD6#8
  | .sysret => m.sysret
  | .exit => m.exit

/-- The bits of the high byte that the hardware uses (R65). -/
def Opcode.usedByte : Opcode → BitVec 8
  | .alu w _ => w.usedByte
  | _ => 0xFF#8

/-- The bits of `op[7:4]` that the hardware uses (R65). -/
def Opcode.usedD : Opcode → BitVec 4
  | .alu .rr _ | .alu .ri _ | .alu .rd _ | .alu .rn _ | .alu .rx _ | .alu .mx _ => 0xF#4
  | .shift _ _ | .movb | .swap | .peek _ | .pop => 0xF#4
  | _ => 0x0#4

/-- The bits of `op[3:0]` that the hardware uses (R65, R66, R107). -/
def Opcode.usedA : Opcode → BitVec 4
  | .alu .rr .mov | .alu .ri .mov | .alu .rd .mov | .alu .rn .mov | .jumpI _ => 0x0#4
  | _ => 0xF#4

/-- The bits of the argument word that the hardware uses (R65). -/
def Opcode.usedArg : Opcode → Word
  | .alu .rr _ | .alu .rn _ | .alu .mn _ | .pushR => 0x000F#16
  | .shift _ _ | .pushf | .pop | .popf | .jumpR _ => 0x0000#16
  | .callR | .syscallR | .enterR | .ret | .sysret | .exit => 0x0000#16
  | _ => 0xFFFF#16

/-- Does the format hold the constant 0001 in `op[3:0]` (R66)? -/
def Opcode.constant : Opcode → Bool
  | .pushR | .pushI | .pushf | .pop | .popf | .callI | .syscallI | .enterI | .ret | .sysret | .exit => true
  | _ => false

/-- The instruction of an opcode with `op[7:4]`, `op[3:0]` and the argument word given. -/
def Opcode.instr (k : Opcode) (d a : BitVec 4) (arg : Word) : Instr :=
  match k with
  | .alu w f => w.instr f d a arg
  | .shift t n => .shift t (regOf d) (regOf a) n
  | .movb => .movb (regOf d) (regOf a) arg
  | .swap => .swap (regOf d) (regOf a) arg
  | .peek half => .peek (regOf d) (regOf a) arg half
  | .pushR => .pushR (regOf (argB arg))
  | .pushI => .pushI arg
  | .pushf => .pushf
  | .pop => .pop (regOf d)
  | .popf => .popf
  | .jumpR c => .jumpR c (regOf a)
  | .jumpI c => .jumpI c arg
  | .callR => .callR (regOf a)
  | .callI => .callI arg
  | .syscallR => .syscallR (regOf a)
  | .syscallI => .syscallI arg
  | .enterR => .enterR (regOf a)
  | .enterI => .enterI arg
  | .ret => .ret
  | .sysret => .sysret
  | .exit => .exit

/-- The opcodes with a byte of their own that is the same under every assignment (R70). -/
def Opcode.fixed : List Opcode :=
  [.movb, .swap, .peek .lower, .peek .upper, .pushR, .pushI, .pushf, .pop, .popf, .callR, .callI, .ret]

/-- The calls and returns (R71). -/
def Opcode.callsAndReturns : List Opcode :=
  [.callR, .callI, .syscallR, .syscallI, .enterR, .enterI, .ret, .sysret, .exit]

/-- The eleven opcodes whose format holds the constant 0001 (R66). -/
def Opcode.withConstant : List Opcode :=
  [.pushR, .pushI, .pushf, .pop, .popf, .callI, .syscallI, .enterI, .ret, .sysret, .exit]

theorem Opcode.mem_withConstant {k : Opcode} : k ∈ withConstant ↔ k.constant = true := by
  cases k <;> simp [withConstant, constant]

theorem Opcode.usedByte_of_constant {k : Opcode} (hk : k.constant = true) : k.usedByte = 0xFF#8 := by
  cases k <;> simp_all [constant, usedByte]

/-- The opcode of each instruction. -/
def Instr.opcode : Instr → Opcode
  | .movRR .. => .alu .rr .mov
  | .andRR .. => .alu .rr .and
  | .orRR .. => .alu .rr .or
  | .xorRR .. => .alu .rr .xor
  | .addRR .. => .alu .rr .add
  | .subRR .. => .alu .rr .sub
  | .addcRR .. => .alu .rr .addc
  | .subbRR .. => .alu .rr .subb
  | .movRI .. => .alu .ri .mov
  | .andRI .. => .alu .ri .and
  | .orRI .. => .alu .ri .or
  | .xorRI .. => .alu .ri .xor
  | .addRI .. => .alu .ri .add
  | .subRI .. => .alu .ri .sub
  | .addcRI .. => .alu .ri .addc
  | .subbRI .. => .alu .ri .subb
  | .movRD .. => .alu .rd .mov
  | .andRD .. => .alu .rd .and
  | .orRD .. => .alu .rd .or
  | .xorRD .. => .alu .rd .xor
  | .addRD .. => .alu .rd .add
  | .subRD .. => .alu .rd .sub
  | .addcRD .. => .alu .rd .addc
  | .subbRD .. => .alu .rd .subb
  | .movRN .. => .alu .rn .mov
  | .andRN .. => .alu .rn .and
  | .orRN .. => .alu .rn .or
  | .xorRN .. => .alu .rn .xor
  | .addRN .. => .alu .rn .add
  | .subRN .. => .alu .rn .sub
  | .addcRN .. => .alu .rn .addc
  | .subbRN .. => .alu .rn .subb
  | .movRX .. => .alu .rx .mov
  | .andRX .. => .alu .rx .and
  | .orRX .. => .alu .rx .or
  | .xorRX .. => .alu .rx .xor
  | .addRX .. => .alu .rx .add
  | .subRX .. => .alu .rx .sub
  | .addcRX .. => .alu .rx .addc
  | .subbRX .. => .alu .rx .subb
  | .movMD .. => .alu .md .mov
  | .andMD .. => .alu .md .and
  | .orMD .. => .alu .md .or
  | .xorMD .. => .alu .md .xor
  | .addMD .. => .alu .md .add
  | .subMD .. => .alu .md .sub
  | .addcMD .. => .alu .md .addc
  | .subbMD .. => .alu .md .subb
  | .movMN .. => .alu .mn .mov
  | .andMN .. => .alu .mn .and
  | .orMN .. => .alu .mn .or
  | .xorMN .. => .alu .mn .xor
  | .addMN .. => .alu .mn .add
  | .subMN .. => .alu .mn .sub
  | .addcMN .. => .alu .mn .addc
  | .subbMN .. => .alu .mn .subb
  | .movMX .. => .alu .mx .mov
  | .andMX .. => .alu .mx .and
  | .orMX .. => .alu .mx .or
  | .xorMX .. => .alu .mx .xor
  | .addMX .. => .alu .mx .add
  | .subMX .. => .alu .mx .sub
  | .addcMX .. => .alu .mx .addc
  | .subbMX .. => .alu .mx .subb
  | .sll _ _ n => .shift .sll n
  | .srl _ _ n => .shift .srl n
  | .sra _ _ n => .shift .sra n
  | .movb .. => .movb
  | .swap .. => .swap
  | .peek _ _ _ half => .peek half
  | .pushR .. => .pushR
  | .pushI .. => .pushI
  | .pushf => .pushf
  | .pop .. => .pop
  | .popf => .popf
  | .jmpR .. => .jumpR .jmp
  | .jzR .. => .jumpR .jz
  | .jnzR .. => .jumpR .jnz
  | .jcR .. => .jumpR .jc
  | .jncR .. => .jumpR .jnc
  | .jltR .. => .jumpR .jlt
  | .jleR .. => .jumpR .jle
  | .jleuR .. => .jumpR .jleu
  | .jmpI .. => .jumpI .jmp
  | .jzI .. => .jumpI .jz
  | .jnzI .. => .jumpI .jnz
  | .jcI .. => .jumpI .jc
  | .jncI .. => .jumpI .jnc
  | .jltI .. => .jumpI .jlt
  | .jleI .. => .jumpI .jle
  | .jleuI .. => .jumpI .jleu
  | .callR .. => .callR
  | .callI .. => .callI
  | .syscallR .. => .syscallR
  | .syscallI .. => .syscallI
  | .enterR .. => .enterR
  | .enterI .. => .enterI
  | .ret => .ret
  | .sysret => .sysret
  | .exit => .exit

/-- The opcode is the one a high byte selects. -/
def Opcode.Selects (m : OpcodeAssignment) (k : Opcode) (b : BitVec 8) : Prop := b &&& k.usedByte = k.byte m

/-- What the decoder answers for an opcode (R66, R74). -/
def Opcode.decoded (k : Opcode) (d a : BitVec 4) (arg : Word) : Decoded :=
  if k.constant then needs0001 a (k.instr d a arg) else .ok (k.instr d a arg)

end Sys2Proof
end

section
/-! PROOF. What the encoder writes for an opcode and its fields, and that every instruction is one. -/

namespace Sys2Proof

/-! ## Bytes and fields

A mask of a used field is a literal; the first three lemmas put `BitVec.and_allOnes` in that spelling. -/

@[simp] theorem and_allOnes4 (f : BitVec 4) : f &&& 0xF#4 = f := BitVec.and_allOnes

@[simp] theorem and_allOnes8 (b : BitVec 8) : b &&& 0xFF#8 = b := BitVec.and_allOnes

@[simp] theorem and_allOnes16 (w : Word) : w &&& 0xFFFF#16 = w := BitVec.and_allOnes

theorem packByte_append (p q d a : BitVec 4) : packByte (p ++ q) d a = packOp p q d a := by
  rw [packByte, BitVec.extractLsb'_append_eq_left, BitVec.extractLsb'_append_eq_right]

theorem byte_packByte (b : BitVec 8) (d a : BitVec 4) : (packByte b d a).extractLsb' 8 8 = b := by
  simp only [packByte, packOp, byte_of_nibbles]
  rw [BitVec.extractLsb'_append_eq_of_le (by decide), BitVec.extractLsb'_append_eq_of_le (by decide),
    BitVec.extractLsb'_eq_self]

theorem opD_packByte (b : BitVec 8) (d a : BitVec 4) : opD (packByte b d a) = d := opD_packOp ..

theorem opA_packByte (b : BitVec 8) (d a : BitVec 4) : opA (packByte b d a) = a := opA_packOp ..

theorem packByte_inj {b c : BitVec 8} {d e a f : BitVec 4} (h : packByte b d a = packByte c e f) :
    b = c ∧ d = e ∧ a = f := by
  refine ⟨?_, ?_, ?_⟩
  · simpa only [byte_packByte] using congrArg (BitVec.extractLsb' 8 8) h
  · simpa only [opD_packByte] using congrArg opD h
  · simpa only [opA_packByte] using congrArg opA h

theorem packByte_and (b c : BitVec 8) (d e a f : BitVec 4) :
    packByte b d a &&& packByte c e f = packByte (b &&& c) (d &&& e) (a &&& f) := by
  simp only [packByte, packOp, byte_of_nibbles]
  exact BitVec.and_append.trans (congrArg (· ++ (a &&& f)) BitVec.and_append)

/-- Every opcode word is a byte and two fields. -/
theorem exists_packByte (op : Word) : ∃ b d a, packByte b d a = op := by
  have hlow : opD op ++ opA op = op.extractLsb' 0 8 := BitVec.extractLsb'_append_extractLsb'_eq_extractLsb' rfl
  have hop : op.extractLsb' 8 8 ++ op.extractLsb' 0 8 = op :=
    BitVec.extractLsb'_append_extractLsb' (w := 8) (len := 8)
  refine ⟨op.extractLsb' 8 8, opD op, opA op, ?_⟩
  calc packByte (op.extractLsb' 8 8) (opD op) (opA op) = op.extractLsb' 8 8 ++ opD op ++ opA op := by
        rw [packByte, packOp, byte_of_nibbles]
    _ = op.extractLsb' 8 8 ++ (opD op ++ opA op) := BitVec.append_assoc
    _ = op := by rw [hlow, hop]

theorem argB_and_low (arg : Word) : argB (arg &&& 0x000F#16) = argB arg := by
  unfold argB
  rw [BitVec.extractLsb'_and]
  exact BitVec.and_allOnes

theorem packB_regOf_argB (arg : Word) : packB (regOf (argB arg)) = arg &&& 0x000F#16 := by
  have hsplit : arg = arg.extractLsb' 4 12 ++ argB arg :=
    (BitVec.extractLsb'_append_extractLsb' (w := 12) (len := 4)).symm
  calc packB (regOf (argB arg)) = 0x000#12 ++ argB arg := by rw [packB, regBits_regOf]
    _ = (arg.extractLsb' 4 12 ++ argB arg) &&& (0x000#12 ++ 0xF#4) := by
      rw [BitVec.and_append, BitVec.and_zero, and_allOnes4]
    _ = arg &&& 0x000F#16 := by rw [← hsplit]; rfl

/-! ## An instruction is an opcode and its fields -/

/-- An instruction is that of its opcode and of the fields the encoder writes for it. -/
theorem Instr.instr_opcode (i : Instr) :
    i.opcode.instr (opD (encodeOp defaultOpcodes i)) (opA (encodeOp defaultOpcodes i)) (encodeArg i) = i := by
  cases i
  case peek rD rA imm half =>
    cases half <;>
      simp [encodeOp, encodeArg, Opcode.instr, Instr.opcode, opD_packByte, opA_packByte, regOf_regBits]
  all_goals
    simp [encodeOp, encodeArg, Opcode.instr, AluForm.instr, Instr.opcode, Instr.aluRR, Instr.aluRI, Instr.aluRD,
      Instr.aluRN, Instr.aluRX, Instr.aluMD, Instr.aluMN, Instr.aluMX, Instr.shift, Instr.jumpR, Instr.jumpI, opD_packOp,
      opA_packOp, opD_packByte, opA_packByte, argB_packB, regOf_regBits]

theorem Instr.opA_of_constant (i : Instr) (h : i.opcode.constant = true) : opA (encodeOp defaultOpcodes i) = 1 := by
  cases i
  all_goals simp [Instr.opcode, Opcode.constant] at h
  all_goals exact opA_packByte ..

theorem Instr.exists_opcode (i : Instr) :
    ∃ (k : Opcode) (d a : BitVec 4) (arg : Word), k.instr d a arg = i ∧ (k.constant = true → a = 1) :=
  ⟨i.opcode, _, _, _, i.instr_opcode, i.opA_of_constant⟩

theorem Opcode.opcode_instr (k : Opcode) (d a : BitVec 4) (arg : Word) : (k.instr d a arg).opcode = k := by
  cases k with
  | alu w f => cases w <;> cases f <;> rfl
  | shift t n => cases t <;> rfl
  | jumpR c | jumpI c => cases c <;> rfl
  | _ => rfl

/-- The bits that an opcode does not use make no difference to the instruction. -/
theorem Opcode.instr_used (k : Opcode) (d a : BitVec 4) (arg : Word) :
    k.instr (d &&& k.usedD) (a &&& k.usedA) (arg &&& k.usedArg) = k.instr d a arg := by
  cases k with
  | alu w f =>
    cases w <;> cases f <;>
      simp [instr, AluForm.instr, usedD, usedA, usedArg, argB_and_low, Instr.aluRR, Instr.aluRI, Instr.aluRD, Instr.aluRN]
  | _ => simp [instr, usedD, usedA, usedArg, argB_and_low]

theorem Opcode.and_usedA_of_constant {k : Opcode} (hk : k.constant = true) (a : BitVec 4) : a &&& k.usedA = a := by
  cases k <;> simp_all [constant, usedA]

/-! ## What the encoder writes for an opcode and its fields -/

theorem Opcode.encodeOp_instr (m : OpcodeAssignment) {k : Opcode} (d : BitVec 4) {a : BitVec 4} (arg : Word)
    (h : k.constant = true → a = 1) :
    encodeOp m (k.instr d a arg) = packByte (k.byte m) (d &&& k.usedD) (a &&& k.usedA) := by
  cases k with
  | alu w f =>
    cases w <;> cases f <;>
      simp [instr, AluForm.instr, usedD, usedA, Instr.aluRR, Instr.aluRI, Instr.aluRD, Instr.aluRN, Instr.aluRX, Instr.aluMD,
        Instr.aluMN, Instr.aluMX, encodeOp, byte, packByte_append, regBits_regOf, AluForm.major, AluForm.bit]
  | shift t n => cases t <;>
      simp [instr, Instr.shift, usedD, usedA, encodeOp, byte, packByte_append, shiftMajor, regBits_regOf]
  | peek half => cases half <;> simp [instr, usedD, usedA, encodeOp, byte, regBits_regOf]
  | jumpR c => cases c <;> simp [instr, Instr.jumpR, usedD, usedA, encodeOp, byte, packByte_append, regBits_regOf]
  | jumpI c => cases c <;> simp [instr, Instr.jumpI, usedD, usedA, encodeOp, byte, packByte_append]
  | _ => simp_all [instr, usedD, usedA, encodeOp, byte, regBits_regOf, constant]

theorem Opcode.encodeArg_instr (k : Opcode) (d a : BitVec 4) (arg : Word) :
    encodeArg (k.instr d a arg) = arg &&& k.usedArg := by
  cases k with
  | alu w f =>
    cases w
    case rr | rn | mn => cases f <;> exact packB_regOf_argB arg
    all_goals cases f <;> exact (and_allOnes16 arg).symm
  | shift t n => cases t <;> exact BitVec.and_zero.symm
  | jumpR c => cases c <;> exact BitVec.and_zero.symm
  | jumpI c => cases c <;> exact (and_allOnes16 arg).symm
  | _ => simp [instr, usedArg, encodeArg, packB_regOf_argB]

theorem Opcode.unusedOp_instr (k : Opcode) (d a : BitVec 4) (arg : Word) :
    unusedOp (k.instr d a arg) = ~~~packByte k.usedByte k.usedD k.usedA := by
  cases k with
  | alu w f => cases w <;> cases f <;> rfl
  | shift t n => cases t <;> simp [instr, Instr.shift, unusedOp, usedByte, usedD, usedA, packByte, packOp]
  | peek half => simp [instr, unusedOp, usedByte, usedD, usedA, packByte, packOp]
  | jumpR c | jumpI c => cases c <;> rfl
  | _ => rfl

theorem Opcode.unusedArg_instr (k : Opcode) (d a : BitVec 4) (arg : Word) :
    unusedArg (k.instr d a arg) = ~~~k.usedArg := by
  cases k with
  | alu w f => cases w <;> cases f <;> rfl
  | shift t n => cases t <;> simp [instr, Instr.shift, unusedArg, usedArg]
  | peek half => simp [instr, unusedArg, usedArg]
  | jumpR c | jumpI c => cases c <;> rfl
  | _ => rfl

theorem encodeOp_byte (m : OpcodeAssignment) (i : Instr) : (encodeOp m i).extractLsb' 8 8 = i.opcode.byte m := by
  obtain ⟨k, d, a, arg, rfl, ha⟩ := i.exists_opcode
  rw [k.encodeOp_instr m d arg ha, byte_packByte, k.opcode_instr]

end Sys2Proof
end

section
/-! PROOF. The decoder reads the opcode from the high byte: `decodeWith_selected` says what it answers where the byte selects
an opcode, `decodeWith_unassigned` what it answers elsewhere, and `selects_or_unassigned` that there is no third case. -/

namespace Sys2Proof

open Machine (ShiftOp)

/-! ## The numbers of an assignment (R67, R68, R71) -/

/-- Settles O5, by the tables of R67, R68 and R71. -/
theorem defaultNumbersLegal : Obligations.DefaultNumbersLegal where
  aluFunct_injective f g := by cases f <;> cases g <;> decide
  mov_is_zero := rfl
  jmpFunct_injective c d := by cases c <;> cases d <;> decide
  callret_distinct := by decide
  callret_unassigned := by decide

/-- An injection into the 3-bit numbers is onto, where some other function from the same type is a bijection. -/
theorem surjective_of_bijective {α : Type} {f g : α → BitVec 3} (hg : Function.Bijective g)
    (hf : Function.Injective f) : Function.Surjective f := by
  have : Finite α := Finite.of_injective (BitVec.toFin ∘ g) (BitVec.toFin_injective.comp hg.injective)
  exact (Finite.injective_iff_surjective_of_equiv (Equiv.ofBijective g hg)).1 hf

theorem defaultAluFunct_surjective : Function.Surjective defaultAluFunct := by
  have hall : ∀ x, ∃ f ∈ AluOp.all, defaultAluFunct f = x := by decide
  exact fun x => (hall x).imp fun _ => And.right

theorem defaultJmpFunct_surjective : Function.Surjective defaultJmpFunct := by
  have hall : ∀ x, ∃ c ∈ Cond.all, defaultJmpFunct c = x := by decide
  exact fun x => (hall x).imp fun _ => And.right

/-- Eight numbers for eight operations: none is left over. -/
theorem OpcodeAssignment.Legal.aluFunct_surjective {m : OpcodeAssignment} (h : m.Legal) :
    Function.Surjective m.aluFunct :=
  surjective_of_bijective ⟨defaultNumbersLegal.aluFunct_injective, defaultAluFunct_surjective⟩ h.aluFunct_injective

/-- Eight numbers for eight conditions: none is left over. -/
theorem OpcodeAssignment.Legal.jmpFunct_surjective {m : OpcodeAssignment} (h : m.Legal) :
    Function.Surjective m.jmpFunct :=
  surjective_of_bijective ⟨defaultNumbersLegal.jmpFunct_injective, defaultJmpFunct_surjective⟩ h.jmpFunct_injective

theorem OpcodeAssignment.Legal.withAluOp_aluFunct {m : OpcodeAssignment} (h : m.Legal) (f : AluOp)
    (k : AluOp → Instr) : m.withAluOp (m.aluFunct f) k = .ok (k f) := by
  rw [withAluOp, h.aluOp?_aluFunct]

theorem OpcodeAssignment.Legal.withCond_jmpFunct {m : OpcodeAssignment} (h : m.Legal) (c : Cond)
    (k : Cond → Instr) : m.withCond (m.jmpFunct c) k = .ok (k c) := by
  rw [withCond, h.cond?_jmpFunct]

/-- The six bytes of `CALLRET_OPCODES` are those of six opcodes. -/
theorem mem_callretBytes {m : OpcodeAssignment} {b : BitVec 8} :
    b ∈ m.callretBytes ↔ ∃ k ∈ [Opcode.syscallR, .syscallI, .enterR, .enterI, .sysret, .exit], k.byte m = b :=
  List.mem_map (f := Opcode.byte m) (l := [.syscallR, .syscallI, .enterR, .enterI, .sysret, .exit])

theorem OpcodeAssignment.Legal.not_mem_of_assigned {m : OpcodeAssignment} (h : m.Legal) {b : BitVec 8}
    (hb : byteAssigned b = true) : b ∉ m.callretBytes := fun hm => by
  rw [h.callret_unassigned b hm] at hb
  cases hb

/-! ## From the high byte to the opcode -/

/-- An opcode is selected by the byte the encoder writes for it. -/
theorem Opcode.selects_byte (m : OpcodeAssignment) (k : Opcode) : k.Selects m (k.byte m) := by
  have hx : ∀ (p : BitVec 4) (g : BitVec 3), p ++ packFunct false g &&& 0xF7#8 = p ++ packFunct false g := by decide
  cases k with
  | alu w f =>
    cases w
    case rx | mx => exact hx _ _
    all_goals exact and_allOnes8 _
  | _ => exact and_allOnes8 _

/-- The opcode whose high byte has no `X` bit is selected by its own byte alone. -/
theorem Opcode.Selects.eq_byte {m : OpcodeAssignment} {k : Opcode} {b : BitVec 8} (hb : k.Selects m b)
    (hk : k.usedByte = 0xFF#8) : b = k.byte m := by
  rw [Selects, hk, and_allOnes8] at hb
  exact hb

/-- A byte whose bit 3 is an `X` bit. -/
theorem indexed_byte {b : BitVec 8} {p : BitVec 4} {g : BitVec 3} (h : b &&& 0xF7#8 = p ++ packFunct false g) :
    ∃ x, b = p ++ packFunct x g := by
  have hlow : ∀ (q : BitVec 4) (g : BitVec 3), q &&& 0x7#4 = packFunct false g → q = packFunct q.msb g := by decide
  have hsplit : b &&& 0xF7#8 = b.extractLsb' 4 4 ++ (b.extractLsb' 0 4 &&& 0x7#4) := by
    calc b &&& 0xF7#8 = (b.extractLsb' 4 4 ++ b.extractLsb' 0 4) &&& (0xF#4 ++ 0x7#4) := by
          rw [byte_of_nibbles]; rfl
      _ = _ := by rw [BitVec.and_append, and_allOnes4]
  rw [hsplit] at h
  have hp : b.extractLsb' 4 4 = p := by
    simpa only [BitVec.extractLsb'_append_eq_left] using congrArg (BitVec.extractLsb' 4 4) h
  have hq : b.extractLsb' 0 4 &&& 0x7#4 = packFunct false g := by
    simpa only [BitVec.extractLsb'_append_eq_right] using congrArg (BitVec.extractLsb' 0 4) h
  exact ⟨_, by rw [← hlow _ g hq, ← hp, byte_of_nibbles]⟩

/-- An ALU form is selected with any value of `op[11]` where that is an `X` bit. -/
theorem AluForm.byte_of_used {w : AluForm} {b : BitVec 8} {g : BitVec 3}
    (h : b &&& w.usedByte = w.major ++ packFunct w.bit g) :
    ∃ x, b = w.major ++ packFunct x g ∧ (w = .rx ∨ w = .mx ∨ x = w.bit) := by
  cases w
  case rx =>
    obtain ⟨x, rfl⟩ := indexed_byte h
    exact ⟨x, rfl, .inl rfl⟩
  case mx =>
    obtain ⟨x, rfl⟩ := indexed_byte h
    exact ⟨x, rfl, .inr (.inl rfl)⟩
  all_goals exact ⟨_, (and_allOnes8 b).symm.trans h, .inr (.inr rfl)⟩

/-- The map of R70, read from the byte: the kind of opcode that each assigned byte selects. -/
theorem byteAssigned_cases : ∀ b : BitVec 8, byteAssigned b = true →
    (∃ w ∈ AluForm.all, b &&& w.usedByte = w.major ++ packFunct w.bit (functOf (b.extractLsb' 0 4))) ∨
    (∃ t ∈ [ShiftOp.sll, .srl, .sra], b = shiftMajor t ++ b.extractLsb' 0 4) ∨
    (∃ x, b = 0xC#4 ++ packFunct x (functOf (b.extractLsb' 0 4))) ∨
    (∃ k ∈ Opcode.fixed, b = k.byte defaultOpcodes) := by
  decide

theorem Opcode.byte_fixed {k : Opcode} (hk : k ∈ fixed) (m : OpcodeAssignment) : k.byte defaultOpcodes = k.byte m := by
  revert k
  simp [fixed, byte]

theorem exists_selects_of_assigned {m : OpcodeAssignment} (h : m.Legal) {b : BitVec 8} (hb : byteAssigned b = true) :
    ∃ k : Opcode, k.Selects m b := by
  rcases byteAssigned_cases b hb with ⟨w, -, hw⟩ | ⟨t, -, ht⟩ | ⟨x, hx⟩ | ⟨k, hk, rfl⟩
  · obtain ⟨f, hf⟩ := h.aluFunct_surjective (functOf (b.extractLsb' 0 4))
    rw [← hf] at hw
    exact ⟨.alu w f, hw⟩
  · rw [ht]
    exact ⟨_, Opcode.selects_byte m (.shift t _)⟩
  · obtain ⟨c, hc⟩ := h.jmpFunct_surjective (functOf (b.extractLsb' 0 4))
    rw [hx, ← hc]
    cases x
    · exact ⟨_, Opcode.selects_byte m (.jumpR c)⟩
    · exact ⟨_, Opcode.selects_byte m (.jumpI c)⟩
  · rw [Opcode.byte_fixed hk m]
    exact ⟨k, Opcode.selects_byte m k⟩

/-- A byte selects an opcode or is one that the opcode map leaves free (R70, R72). -/
theorem selects_or_unassigned {m : OpcodeAssignment} (h : m.Legal) (b : BitVec 8) :
    (∃ k : Opcode, k.Selects m b) ∨ (byteAssigned b = false ∧ b ∉ m.callretBytes) := by
  cases hb : byteAssigned b with
  | true => exact .inl (exists_selects_of_assigned h hb)
  | false =>
    by_cases hm : b ∈ m.callretBytes
    · obtain ⟨k, -, rfl⟩ := mem_callretBytes.1 hm
      exact .inl ⟨k, Opcode.selects_byte m k⟩
    · exact .inr ⟨rfl, hm⟩

/-! ## The decoder on the fields of an opcode word -/

theorem decodeWith_packByte (m : OpcodeAssignment) (b : BitVec 8) (d a : BitVec 4) (arg : Word) :
    decodeWith m (packByte b d a) arg = m.decodeFields (b.extractLsb' 4 4) (b.extractLsb' 0 4) d a arg := by
  rw [decodeWith, packByte, opMajor_packOp, opMinor_packOp, opD_packOp, opA_packOp]

theorem decodeWith_packOp (m : OpcodeAssignment) (p q d a : BitVec 4) (arg : Word) :
    decodeWith m (packOp p q d a) arg = m.decodeFields p q d a arg := by
  rw [decodeWith, opMajor_packOp, opMinor_packOp, opD_packOp, opA_packOp]

/-- The top two nibbles of an ALU word select its form; `op[11]` counts only where it is no `X` bit. -/
theorem AluForm.decodeFields {w : AluForm} {x : Bool} (hx : w = .rx ∨ w = .mx ∨ x = w.bit) (m : OpcodeAssignment)
    (g : BitVec 3) (d a : BitVec 4) (arg : Word) :
    m.decodeFields w.major (packFunct x g) d a arg = m.withAluOp g (w.instr · d a arg) := by
  cases w
  case rx | mx => simp [OpcodeAssignment.decodeFields, major, functOf_packFunct, instr]
  all_goals
    obtain rfl : x = _ := by simpa using hx
    simp [OpcodeAssignment.decodeFields, major, bit, functOf_packFunct, msb_packFunct, instr]

/-- The bytes that the decoder compares with those of the calls and returns: those that R70 assigns to no
other instruction. -/
def reachesCallRet (b : BitVec 8) : Bool := !byteAssigned b || b == 0xD0#8 || b == 0xD1#8 || b == 0xD6#8

theorem OpcodeAssignment.decodeWith_callRet (m : OpcodeAssignment) {b : BitVec 8} (h : reachesCallRet b = true)
    (d a : BitVec 4) (arg : Word) : decodeWith m (packByte b d a) arg = m.decodeCallRet b a arg := by
  have hfields : ∀ p q : BitVec 4, reachesCallRet (p ++ q) = true →
      p ≠ 0x0#4 ∧ p ≠ 0x1#4 ∧ p ≠ 0x2#4 ∧ p ≠ 0x3#4 ∧ p ≠ 0x4#4 ∧ p ≠ 0x5#4 ∧ p ≠ 0x6#4 ∧ p ≠ 0x7#4 ∧
        ¬(p = 0x8#4 ∧ q.toNat ≤ 8) ∧ p ≠ 0xC#4 := by
    decide
  rw [← byte_of_nibbles b] at h ⊢
  rw [packByte_append, decodeWith_packOp]
  simp only [decodeFields, hfields _ _ h, if_false]

theorem decodeWith_unassigned {m : OpcodeAssignment} {b : BitVec 8} (hb : byteAssigned b = false)
    (hm : b ∉ m.callretBytes) (d a : BitVec 4) (arg : Word) :
    decodeWith m (packByte b d a) arg = .error .unassignedOpcode := by
  have hne : ∀ c, byteAssigned c = true → b ≠ c := by
    rintro c hc rfl
    simp [hb] at hc
  rw [m.decodeWith_callRet (by simp [reachesCallRet, hb])]
  simp only [OpcodeAssignment.callretBytes, List.mem_cons, List.not_mem_nil, or_false, not_or] at hm
  simp only [OpcodeAssignment.decodeCallRet, hm, hne 0xD0#8 rfl, hne 0xD1#8 rfl, hne 0xD6#8 rfl, if_false]

/-- The tests of `decodeCallRet` exclude each other, since the bytes of a legal assignment are distinct and none is `D0`,
`D1` or `D6`. -/
theorem OpcodeAssignment.Legal.decodeCallRet_byte {m : OpcodeAssignment} (h : m.Legal) {k : Opcode}
    (hk : k ∈ Opcode.callsAndReturns) (d a : BitVec 4) (arg : Word) :
    m.decodeCallRet (k.byte m) a arg = k.decoded d a arg := by
  have hD0 := h.not_mem_of_assigned (b := 0xD0#8) rfl
  have hD1 := h.not_mem_of_assigned (b := 0xD1#8) rfl
  have hD6 := h.not_mem_of_assigned (b := 0xD6#8) rfl
  have hd := h.callret_distinct
  simp only [callretBytes, List.nodup_cons, List.mem_cons, List.not_mem_nil, not_or] at hd hD0 hD1 hD6
  simp only [Opcode.callsAndReturns, List.mem_cons, List.not_mem_nil, or_false] at hk
  rcases hk with rfl | rfl | rfl | rfl | rfl | rfl | rfl | rfl | rfl <;>
    grind [Opcode.byte, Opcode.decoded, Opcode.constant, Opcode.instr, OpcodeAssignment.decodeCallRet]

theorem OpcodeAssignment.Legal.reachesCallRet_byte {m : OpcodeAssignment} (h : m.Legal) {k : Opcode}
    (hk : k ∈ Opcode.callsAndReturns) : reachesCallRet (k.byte m) = true := by
  have hfree : ∀ b ∈ m.callretBytes, reachesCallRet b = true := fun b hb => by
    rw [reachesCallRet, h.callret_unassigned b hb]
    rfl
  revert k
  simp only [Opcode.callsAndReturns, List.forall_mem_cons]
  simp only [callretBytes, List.forall_mem_cons] at hfree
  obtain ⟨hsyscallR, hsyscallI, henterR, henterI, hsysret, hexit, -⟩ := hfree
  exact ⟨rfl, rfl, hsyscallR, hsyscallI, henterR, henterI, rfl, hsysret, hexit, List.forall_mem_nil _⟩

theorem OpcodeAssignment.Legal.decodeWith_callOrReturn {m : OpcodeAssignment} (h : m.Legal) {k : Opcode}
    (hk : k ∈ Opcode.callsAndReturns) (d a : BitVec 4) (arg : Word) :
    decodeWith m (packByte (k.byte m) d a) arg = k.decoded d a arg := by
  rw [m.decodeWith_callRet (h.reachesCallRet_byte hk), h.decodeCallRet_byte hk d]

/-- Where the high byte selects an opcode, the decoder answers for that opcode. -/
theorem decodeWith_selected {m : OpcodeAssignment} (h : m.Legal) {k : Opcode} {b : BitVec 8} (hb : k.Selects m b)
    (d a : BitVec 4) (arg : Word) : decodeWith m (packByte b d a) arg = k.decoded d a arg := by
  cases k with
  | alu w f =>
    obtain ⟨x, rfl, hx⟩ := AluForm.byte_of_used hb
    rw [packByte_append, decodeWith_packOp, AluForm.decodeFields hx, h.withAluOp_aluFunct]
    rfl
  | shift t n =>
    obtain rfl := hb.eq_byte rfl
    cases t <;> rw [Opcode.byte, packByte_append, decodeWith_packOp] <;> rfl
  | jumpR c | jumpI c =>
    obtain rfl := hb.eq_byte rfl
    rw [Opcode.byte, packByte_append, decodeWith_packOp]
    simp [OpcodeAssignment.decodeFields, functOf_packFunct, msb_packFunct, h.withCond_jmpFunct, Opcode.decoded,
      Opcode.constant, Opcode.instr]
  | peek half =>
    obtain rfl := hb.eq_byte rfl
    cases half <;>
      simp [decodeWith_packByte, OpcodeAssignment.decodeFields, decodeMemStack, Opcode.byte, Opcode.decoded,
        Opcode.constant, Opcode.instr]
  | movb | swap | pushR | pushI | pushf | pop | popf =>
    obtain rfl := hb.eq_byte rfl
    simp [decodeWith_packByte, OpcodeAssignment.decodeFields, decodeMemStack, Opcode.byte, Opcode.decoded,
      Opcode.constant, Opcode.instr]
  | callR | callI | syscallR | syscallI | enterR | enterI | ret | sysret | exit =>
    obtain rfl := hb.eq_byte rfl
    exact h.decodeWith_callOrReturn (by simp [Opcode.callsAndReturns]) d a arg

/-! ## What the decoder answers for an opcode -/

theorem Opcode.decoded_eq_ok {k : Opcode} {d a : BitVec 4} {arg : Word} {i : Instr} :
    k.decoded d a arg = .ok i ↔ (k.constant = true → a = 1) ∧ k.instr d a arg = i := by
  unfold decoded needs0001
  split_ifs <;> simp_all

theorem Opcode.decoded_eq_constantField {k : Opcode} {d a : BitVec 4} {arg : Word} :
    k.decoded d a arg = .error .constantFieldNot0001 ↔ a ≠ 1 ∧ k.constant = true := by
  unfold decoded needs0001
  split_ifs <;> simp_all

theorem Opcode.decoded_ne_unassigned {k : Opcode} {d a : BitVec 4} {arg : Word} :
    k.decoded d a arg ≠ .error .unassignedOpcode := by
  unfold decoded needs0001
  split_ifs <;> simp

/-- No two opcodes share a byte: the decoder, which answers one instruction, answers for both. -/
theorem Opcode.Selects.unique {m : OpcodeAssignment} (h : m.Legal) {j k : Opcode} {b : BitVec 8} (hj : j.Selects m b)
    (hk : k.Selects m b) : j = k := by
  have hdec : ∀ {k : Opcode}, k.Selects m b → decodeWith m (packByte b 0 1) 0 = .ok (k.instr 0 1 0) := fun hk => by
    rw [decodeWith_selected h hk, Opcode.decoded_eq_ok]
    exact ⟨fun _ => rfl, rfl⟩
  have hinstr : j.instr 0 1 0 = k.instr 0 1 0 := Except.ok.inj ((hdec hj).symm.trans (hdec hk))
  rw [← j.opcode_instr 0 1 0, hinstr, k.opcode_instr]

end Sys2Proof
end

section
/-! PROOF. The statements of the family "encoding" (30_encoding.md of the spec). -/

namespace Sys2Proof

/-! ## Encoder and decoder -/

/-- Settles O1: the byte the encoder writes selects the opcode, and the fields it writes hold all the bits the opcode
uses. -/
theorem decodeOfEncode : Obligations.DecodeOfEncode := by
  intro m h i
  obtain ⟨k, d, a, arg, rfl, ha⟩ := i.exists_opcode
  rw [k.encodeOp_instr m d arg ha, k.encodeArg_instr, decodeWith_selected h (k.selects_byte m), Opcode.decoded_eq_ok]
  exact ⟨fun hk => (k.and_usedA_of_constant hk a).trans (ha hk), k.instr_used d a arg⟩

/-- Settles O2. Where the decoder answers `i`, the byte selects the opcode of `i` and the words agree with its encoding in
the used bits; and words that agree with the encoding in the used bits select its opcode and give the same fields. -/
theorem decodeExactly : Obligations.DecodeExactly := by
  intro m h op arg i
  obtain ⟨b, d, a, rfl⟩ := exists_packByte op
  constructor
  · intro hdec
    rcases selects_or_unassigned h b with ⟨k, hk⟩ | ⟨hb, hm⟩
    · rw [decodeWith_selected h hk, Opcode.decoded_eq_ok] at hdec
      obtain ⟨ha, rfl⟩ := hdec
      rw [k.unusedOp_instr, k.unusedArg_instr, k.encodeOp_instr m d arg ha, k.encodeArg_instr, BitVec.not_not,
        BitVec.not_not, packByte_and, hk]
      exact ⟨rfl, rfl⟩
    · rw [decodeWith_unassigned hb hm] at hdec
      cases hdec
  · obtain ⟨k, d', a', arg', rfl, ha⟩ := i.exists_opcode
    rw [k.unusedOp_instr, k.unusedArg_instr, k.encodeOp_instr m d' arg' ha, k.encodeArg_instr, BitVec.not_not,
      BitVec.not_not, packByte_and]
    rintro ⟨hop, hargs⟩
    obtain ⟨hb, hds, has⟩ := packByte_inj hop
    rw [decodeWith_selected h hb, Opcode.decoded_eq_ok, ← k.instr_used d a arg, hds, has, hargs, k.instr_used]
    refine ⟨fun hk => ?_, rfl⟩
    rw [k.and_usedA_of_constant hk, k.and_usedA_of_constant hk] at has
    exact has.trans (ha hk)

/-- Settles O3: where the byte selects an opcode the decoder does not answer `unassignedOpcode`, elsewhere it does. -/
theorem unassignedBytes : Obligations.UnassignedBytes := by
  intro m h op arg
  obtain ⟨b, d, a, rfl⟩ := exists_packByte op
  rw [byte_packByte]
  constructor
  · intro hdec
    rcases selects_or_unassigned h b with ⟨k, hk⟩ | hfree
    · rw [decodeWith_selected h hk] at hdec
      exact absurd hdec Opcode.decoded_ne_unassigned
    · exact hfree
  · rintro ⟨hb, hm⟩
    exact decodeWith_unassigned hb hm d a arg

/-- The bytes in the statement of O4 are those of the eleven opcodes with a constant field. -/
theorem mem_constantBytes {m : OpcodeAssignment} {b : BitVec 8} :
    b ∈ [0x84#8, 0x85#8, 0x86#8, 0x87#8, 0x88#8, 0xD1#8, m.syscallI, m.enterI, 0xD6#8, m.sysret, m.exit] ↔
      ∃ k ∈ Opcode.withConstant, k.byte m = b :=
  List.mem_map (f := Opcode.byte m) (l := Opcode.withConstant)

/-- Settles O4: of the opcodes a byte selects, exactly the eleven of `Opcode.withConstant` can be answered with
`constantFieldNot0001`. -/
theorem constantField : Obligations.ConstantField := by
  intro m h op arg
  obtain ⟨b, d, a, rfl⟩ := exists_packByte op
  rw [byte_packByte, mem_constantBytes, show (packByte b d a).extractLsb' 0 4 = a from opA_packByte ..]
  constructor
  · intro hdec
    rcases selects_or_unassigned h b with ⟨k, hk⟩ | ⟨hb, hm⟩
    · rw [decodeWith_selected h hk, Opcode.decoded_eq_constantField] at hdec
      obtain ⟨ha, hc⟩ := hdec
      exact ⟨ha, k, Opcode.mem_withConstant.2 hc, (hk.eq_byte (Opcode.usedByte_of_constant hc)).symm⟩
    · rw [decodeWith_unassigned hb hm] at hdec
      cases hdec
  · rintro ⟨ha, k, hk, rfl⟩
    rw [decodeWith_selected h (k.selects_byte m), Opcode.decoded_eq_constantField]
    exact ⟨ha, Opcode.mem_withConstant.1 hk⟩

/-- Settles O6: each word is decoded by evaluation. -/
theorem sampleWords : Obligations.SampleWords := by
  unfold Obligations.SampleWords
  refine ⟨?_, ?_, ?_, ?_, ?_, ?_, ?_, ?_, ?_, ?_, ?_, ?_, ?_, ?_, ?_, ?_, ?_, ?_, ?_, ?_, ?_, ?_⟩ <;> rfl

/-! ## Durations -/

/-- The fields below the high byte have no part in the duration (R355). -/
theorem Opcode.cycles_instr (k : Opcode) (d a : BitVec 4) (arg : Word) (d' a' : BitVec 4) (arg' : Word) :
    Machine.cycles (k.instr d a arg) = Machine.cycles (k.instr d' a' arg') := by
  cases k with
  | alu w f => cases w <;> cases f <;> rfl
  | shift t n => cases t <;> rfl
  | jumpR c | jumpI c => cases c <;> rfl
  | _ => rfl

theorem cycles_eq_of_opcode_eq {i j : Instr} (h : i.opcode = j.opcode) : Machine.cycles i = Machine.cycles j := by
  rw [← i.instr_opcode, ← j.instr_opcode, h]
  exact Opcode.cycles_instr ..

/-- Settles O60: a byte selects one opcode, and the opcode fixes the duration. -/
theorem durationsFixedByOpcode : Obligations.DurationsFixedByOpcode := by
  refine ⟨fun m h i j hij => ?_, fun rD rA n => ⟨rfl, rfl, rfl⟩⟩
  rw [encodeOp_byte, encodeOp_byte] at hij
  have hj : j.opcode.Selects m (i.opcode.byte m) := hij ▸ j.opcode.selects_byte m
  exact cycles_eq_of_opcode_eq ((i.opcode.selects_byte m).unique h hj)

end Sys2Proof

namespace Sys2Proof.Machine

/-! ## Shifts -/

theorem shiftResult_sll (a : Word) (n : Nat) : shiftResult .sll a n = BitVec.ofNat 16 (a.toNat * 2 ^ n) := by
  apply BitVec.eq_of_toNat_eq
  simp [shiftResult, Nat.shiftLeft_eq]

theorem shiftResult_srl (a : Word) (n : Nat) : shiftResult .srl a n = BitVec.ofNat 16 (a.toNat / 2 ^ n) := by
  apply BitVec.eq_of_toNat_eq
  have h : a.toNat / 2 ^ n < 2 ^ 16 := (Nat.div_le_self _ _).trans_lt a.isLt
  rw [shiftResult, BitVec.toNat_ushiftRight, Nat.shiftRight_eq_div_pow, BitVec.toNat_ofNat, Nat.mod_eq_of_lt h]

theorem shiftResult_sra (a : Word) (n : Nat) : shiftResult .sra a n = BitVec.ofInt 16 (a.toInt / 2 ^ n) := by
  rw [shiftResult, BitVec.sshiftRight, Int.shiftRight_eq_div_pow]
  norm_cast

theorem exec_shift (t : ShiftOp) (rD rA : Reg) (n : BitVec 4) (s : State) :
    exec (.shift t rD rA n) s = .next (s.shift t rD rA n) := by
  cases t <;> rfl

theorem exec_shift_effect (t : ShiftOp) (rD rA : Reg) {n : BitVec 4} (hn : n ≠ 0) (s : State) :
    ∃ u, exec (.shift t rD rA n) s = .next u ∧ ShiftEffect rD (shiftResult t (s.reg rA) n.toNat) s u :=
  ⟨_, by rw [exec_shift, State.shift_nonzero s t rD rA hn], State.shiftToReg_effect ..⟩

theorem decode_shift (t : ShiftOp) (rD rA : Reg) (n : BitVec 4) (arg : Word) :
    decode (packOp (shiftMajor t) n (regBits rD) (regBits rA)) arg = .ok (.shift t rD rA n) := by
  have hselects : (Opcode.shift t n).Selects defaultOpcodes (shiftMajor t ++ n) := Opcode.selects_byte ..
  rw [← packByte_append, decode, decodeWith_selected defaultNumbersLegal hselects, Opcode.decoded_eq_ok, Opcode.instr,
    regOf_regBits, regOf_regBits]
  exact ⟨nofun, rfl⟩

/-- Settles O24: the three words decode by their opcodes, and each shift's result is integer arithmetic. -/
theorem shiftsAreArithmetic : Obligations.ShiftsAreArithmetic := by
  intro s rD rA n arg hn
  refine ⟨⟨decode_shift .sll rD rA n arg, decode_shift .srl rD rA n arg, decode_shift .sra rD rA n arg⟩, ?_⟩
  rw [← shiftResult_sll, ← shiftResult_srl, ← shiftResult_sra]
  exact ⟨exec_shift_effect .sll rD rA hn s, exec_shift_effect .srl rD rA hn s, exec_shift_effect .sra rD rA hn s⟩

/-! ## Steps -/

/-- Settles O8: the fetch finds the two words, and the decoder's reason is the refusal's. -/
theorem stepRefusesReserved : Obligations.StepRefusesReserved := by
  intro m s op arg why h hd
  simp only [stepWith, State.fetch_of_holds h, hd]

end Sys2Proof.Machine
end

section
/-! PROOF. The four sums of the ALU as arithmetic (R114 to R117). A subtraction is an addition of the complement, so one lemma
over the 17-bit sum says the result and the flags of all four (`aluResult_of_sum`, `aluFlags_of_sum`); `C` and `V` of each
operation are then read as carry or borrow, and as signed overflow. -/

namespace Sys2Proof.Machine

/-! ## The 17-bit sum -/

theorem sum17_toNat (a b : Word) (cin : Bool) : (sum17 a b cin).toNat = a.toNat + b.toNat + cin.toNat := by
  cases cin <;> simp [sum17] <;> omega

theorem sum17_msb (a b : Word) (cin : Bool) :
    (sum17 a b cin).msb = decide (65536 ≤ a.toNat + b.toNat + cin.toNat) := by
  rw [BitVec.msb_eq_decide, sum17_toNat]

theorem sum17_low_toNat (a b : Word) (cin : Bool) :
    ((sum17 a b cin).setWidth 16).toNat = (a.toNat + b.toNat + cin.toNat) % 65536 := by
  rw [BitVec.toNat_setWidth, sum17_toNat]

/-- A word as a signed number (R8). -/
theorem word_toInt (a : Word) : a.toInt = if a.toNat < 32768 then (a.toNat : Int) else a.toNat - 65536 := by
  rw [BitVec.toInt_eq_toNat_cond]
  split <;> split <;> omega

theorem word_msb (a : Word) : a.msb = decide (32768 ≤ a.toNat) := BitVec.msb_eq_decide a

/-- `V` of an addition is "the signed sum does not fit 16 bits" (R114, R116). -/
theorem addOverflow_eq {a b r : Word} {cin : Bool} (hr : r.toNat = (a.toNat + b.toNat + cin.toNat) % 65536) :
    addOverflow a b r =
      decide (a.toInt + b.toInt + cin.toNat < -32768 ∨ 32767 < a.toInt + b.toInt + cin.toNat) := by
  have hcin := cin.toNat_le
  rw [addOverflow, Bool.eq_iff_iff]
  simp only [word_msb, word_toInt, hr, Bool.and_eq_true, beq_iff_eq, bne_iff_ne, decide_eq_true_eq, decide_eq_decide, ne_eq]
  omega

/-- The complement turns the overflow of a subtraction into that of an addition. -/
theorem subOverflow_eq_addOverflow (a b r : Word) : subOverflow a b r = addOverflow a (~~~b) r := by
  rw [subOverflow, addOverflow, BitVec.msb_not]
  cases a.msb <;> cases b.msb <;> rfl

/-! ## The four sums of the ALU -/

/-- The word the ALU adds to the first operand: `b`, or its complement in a subtraction (R114 to R117). -/
def aluAddend (f : AluOp) (b : Word) : Word :=
  match f with
  | .sub | .subb => ~~~b
  | _ => b

/-- The carry the ALU adds (R114 to R117). -/
def aluCarryIn (f : AluOp) (carry : Bool) : Bool :=
  match f with
  | .sub => true
  | .addc | .subb => carry
  | _ => false

/-- The sum of an operation as a number. -/
def aluTotal (f : AluOp) (a b : Word) (carry : Bool) : Nat :=
  a.toNat + (aluAddend f b).toNat + (aluCarryIn f carry).toNat

/-- The sum of an operation with its operands signed. -/
def aluSignedTotal (f : AluOp) (a b : Word) (carry : Bool) : Int :=
  a.toInt + (aluAddend f b).toInt + (aluCarryIn f carry).toNat

theorem aluSum_of_sum {f : AluOp} (a b : Word) (carry : Bool) (hf : aluFlagEffect f = .sum) :
    aluSum f a b carry = sum17 a (aluAddend f b) (aluCarryIn f carry) := by
  cases f with
  | add | sub | addc | subb => rfl
  | _ => cases hf

theorem aluResult_of_sum {f : AluOp} (a b : Word) (carry : Bool) (hf : aluFlagEffect f = .sum) :
    (aluResult f a b carry).toNat = aluTotal f a b carry % 65536 := by
  have hr : aluResult f a b carry = (aluSum f a b carry).setWidth 16 := by
    cases f with
    | add | sub | addc | subb => rfl
    | _ => cases hf
  rw [hr, aluSum_of_sum a b carry hf, sum17_low_toNat, aluTotal]

theorem word_beq_zero (r : Word) : (r == 0) = decide (r.toNat = 0) := by
  rw [Bool.eq_iff_iff, beq_iff_eq, decide_eq_true_eq, BitVec.toNat_eq]
  rfl

/-- An operation in the sum row of R28 has the flags of its sum. -/
theorem aluFlags_of_sum {f : AluOp} (a b : Word) (F : Flags) (d : Nat) (hf : aluFlagEffect f = .sum) :
    aluFlags f a b F d =
      { z := decide ((aluResult f a b F.c).toNat = 0)
        c := decide (65536 ≤ aluTotal f a b F.c)
        v := decide (aluSignedTotal f a b F.c < -32768 ∨ 32767 < aluSignedTotal f a b F.c)
        s := decide ((aluResult f a b F.c).toInt < 0) } := by
  have hflags : aluFlags f a b F d =
      { z := aluResult f a b F.c == 0
        c := (aluSum f a b F.c).msb
        v := addOverflow a (aluAddend f b) (aluResult f a b F.c)
        s := (aluResult f a b F.c).msb } := by
    cases f with
    | add | addc => rfl
    | sub | subb =>
      rw [aluFlags, subOverflow_eq_addOverflow]
      rfl
    | _ => cases hf
  rw [hflags, word_beq_zero, aluSum_of_sum a b F.c hf, sum17_msb, addOverflow_eq (aluResult_of_sum a b F.c hf),
    BitVec.msb_eq_toInt]
  rfl

/-! ## Addition and subtraction -/

/-- Settles O18: the total of an addition is the sum of the operands and the carry in. -/
theorem additionIsArithmetic : Obligations.AdditionIsArithmetic := by
  intro a b F d f hf c r
  have hsum : aluFlagEffect f = .sum := by
    obtain rfl | rfl := hf <;> rfl
  have haddend : aluAddend f b = b := by
    obtain rfl | rfl := hf <;> rfl
  have hcarry : (aluCarryIn f F.c).toNat = c := by
    obtain rfl | rfl := hf
    · rfl
    · cases h : F.c <;> simp [c, h, aluCarryIn]
  have htotal : aluTotal f a b F.c = a.toNat + b.toNat + c := by rw [aluTotal, haddend, hcarry]
  have hsigned : aluSignedTotal f a b F.c = a.toInt + b.toInt + c := by rw [aluSignedTotal, haddend, hcarry]
  refine ⟨?_, ?_⟩
  · rw [aluResult_of_sum a b F.c hsum, htotal]
  · rw [aluFlags_of_sum a b F d hsum, htotal, hsigned]

theorem word_not_toNat (b : Word) : (~~~b).toNat = 65535 - b.toNat := BitVec.toNat_not

theorem word_not_toInt (b : Word) : (~~~b).toInt = -b.toInt - 1 := by
  have hb := b.isLt
  rw [word_toInt, word_toInt, word_not_toNat]
  split <;> split <;> omega

/-- Settles O19: the total of a subtraction is 2^16 more than the difference less the borrow, because the complement of `b` is
65535 - `b` and the carry in is 1 - borrow. -/
theorem subtractionIsArithmetic : Obligations.SubtractionIsArithmetic := by
  intro a b F d f hf borrow r
  have hsum : aluFlagEffect f = .sum := by
    obtain rfl | rfl := hf <;> rfl
  have haddend : aluAddend f b = ~~~b := by
    obtain rfl | rfl := hf <;> rfl
  have hcarry : (aluCarryIn f F.c).toNat + borrow = 1 := by
    obtain rfl | rfl := hf
    · rfl
    · cases h : F.c <;> simp [borrow, h, aluCarryIn]
  have htotal : aluTotal f a b F.c + b.toNat + borrow = a.toNat + 65536 := by
    rw [aluTotal, haddend, word_not_toNat]
    omega
  have hsigned : aluSignedTotal f a b F.c = a.toInt - b.toInt - borrow := by
    rw [aluSignedTotal, haddend, word_not_toInt]
    omega
  have hno : 65536 ≤ aluTotal f a b F.c ↔ b.toNat + borrow ≤ a.toNat := by omega
  refine ⟨?_, ?_⟩
  · rw [aluResult_of_sum a b F.c hsum]
    omega
  · rw [aluFlags_of_sum a b F d hsum, hsigned, decide_eq_decide.2 hno]

end Sys2Proof.Machine
end

section
/-! PROOF. The statements of the family "register destination" (40_alu_register_dest.md of the spec) about instructions: each
of the 40 is the ALU operation on its two operands (`exec_aluRR` and its like, `State.aluToReg_effect`). -/

namespace Sys2Proof.Machine

/-! ## ALU operations on registers -/

/-- The register form of `mov` is the ALU operation `mov`, whatever its first operand: it draws nothing and keeps the flags
(R107). -/
theorem State.movToReg_eq_aluToReg (s : State) (rD : Reg) (a v : Word) : s.movToReg rD v = s.aluToReg .mov rD a v := rfl

theorem exec_aluRR (f : AluOp) (rD rA rB : Reg) (s : State) :
    exec (.aluRR f rD rA rB) s = .next (s.aluToReg f rD (s.reg rA) (s.reg rB)) := by
  cases f with
  | mov =>
    rw [← State.movToReg_eq_aluToReg]
    rfl
  | _ => rfl

theorem exec_aluRI (f : AluOp) (rD rA : Reg) (imm : Word) (s : State) :
    exec (.aluRI f rD rA imm) s = .next (s.aluToReg f rD (s.reg rA) imm) := by
  cases f with
  | mov =>
    rw [← State.movToReg_eq_aluToReg]
    rfl
  | _ => rfl

theorem exec_aluRD (f : AluOp) (rD rA : Reg) (addr : Word) (s : State) :
    exec (.aluRD f rD rA addr) s = s.onStorage addr (.next (s.aluToReg f rD (s.reg rA) (s.ramWord addr))) := by
  cases f with
  | mov =>
    rw [← State.movToReg_eq_aluToReg]
    rfl
  | _ => rfl

theorem exec_aluRN (f : AluOp) (rD rA rB : Reg) (s : State) :
    exec (.aluRN f rD rA rB) s =
      s.onStorage (s.reg rB) (.next (s.aluToReg f rD (s.reg rA) (s.ramWord (s.reg rB)))) := by
  cases f with
  | mov =>
    rw [← State.movToReg_eq_aluToReg]
    rfl
  | _ => rfl

theorem exec_aluRX (f : AluOp) (rD rA : Reg) (imm : Word) (s : State) :
    exec (.aluRX f rD rA imm) s =
      s.onStorage (s.indexed rA imm) (.next (s.aluToReg f rD (s.reg rD) (s.ramWord (s.indexed rA imm)))) := by
  cases f with
  | mov =>
    rw [← State.movToReg_eq_aluToReg]
    rfl
  | _ => rfl

/-- An ALU operation that reads a storage address completes with its effect (R106). -/
theorem State.onStorage_aluToReg {s : State} {ea : Word} (f : AluOp) (rD : Reg) (a b : Word)
    (h : s.ramKind ea = .storage) :
    ∃ t, s.onStorage ea (.next (s.aluToReg f rD a b)) = .next t ∧ AluToRegEffect f rD a b s t :=
  ⟨_, State.onStorage_storage h, State.aluToReg_effect s f rD a b⟩

/-- Settles O16: each of the five forms is the ALU operation on its own two operands. -/
theorem aluRegisterDestination : Obligations.AluRegisterDestination := by
  intro f s rD rA rB imm addr
  rw [exec_aluRR, exec_aluRI, exec_aluRD, exec_aluRN, exec_aluRX]
  exact ⟨⟨_, rfl, State.aluToReg_effect ..⟩, ⟨_, rfl, State.aluToReg_effect ..⟩, State.onStorage_aluToReg f rD _ _,
    State.onStorage_aluToReg f rD _ _, State.onStorage_aluToReg f rD _ _⟩

/-! ## What later instructions see of an ALU operation -/

theorem State.aluToReg_flags (s : State) (f : AluOp) (rD : Reg) (a b : Word) :
    (s.aluToReg f rD a b).flags = aluFlags f a b s.flags s.draws := rfl

theorem State.reg_aluToReg_same (s : State) (f : AluOp) (rD : Reg) (a b : Word) :
    (s.aluToReg f rD a b).reg rD = if rD = zeroReg then 0 else aluResult f a b s.flags.c :=
  (State.aluToReg_effect s f rD a b).result

theorem State.reg_aluToReg_other (s : State) (f : AluOp) {rD r : Reg} (a b : Word) (h : r ≠ rD) :
    (s.aluToReg f rD a b).reg r = s.reg r :=
  (State.aluToReg_effect s f rD a b).others.frame.regs r (List.mem_singleton.not.2 h)

/-- With `zero` as destination only the flags are kept of the result (R106). -/
theorem State.aluToReg_zeroReg_regs (s : State) (f : AluOp) (a b : Word) : (s.aluToReg f zeroReg a b).regs = s.regs := rfl

/-! ## One and two instructions -/

theorem execAll_one {i : Instr} {s t : State} (h : exec i s = .next t) : execAll [i] s = .next t := by
  simp only [execAll, h]

theorem execAll_two {i j : Instr} {s t u : State} (hi : exec i s = .next t) (hj : exec j t = .next u) :
    execAll [i, j] s = .next u := by
  simp only [execAll, hi, hj]

/-! ## Two words as one number -/

theorem append_toNat (hi lo : Word) : (hi ++ lo).toNat = hi.toNat * 65536 + lo.toNat := by
  rw [BitVec.toNat_append, ← Nat.shiftLeft_add_eq_or_of_lt lo.isLt, Nat.shiftLeft_eq]

/-- What two register-form ALU instructions leave, where the first leaves alone what the second reads and writes: the second
works on the old registers and on the flags of the first. -/
theorem execAll_aluRR_aluRR (f g : AluOp) {dLo aLo bLo dHi aHi bHi : Reg} (s : State) (hLo : dLo ≠ zeroReg)
    (hHi : dHi ≠ zeroReg) (hd : dLo ≠ dHi) (ha : dLo ≠ aHi) (hb : dLo ≠ bHi) :
    ∃ t F d, F = aluFlags f (s.reg aLo) (s.reg bLo) s.flags s.draws ∧
      execAll [.aluRR f dLo aLo bLo, .aluRR g dHi aHi bHi] s = .next t ∧
      t.reg dLo = aluResult f (s.reg aLo) (s.reg bLo) s.flags.c ∧
      t.reg dHi = aluResult g (s.reg aHi) (s.reg bHi) F.c ∧
      t.flags = aluFlags g (s.reg aHi) (s.reg bHi) F d := by
  have hA := State.reg_aluToReg_other s f (s.reg aLo) (s.reg bLo) ha.symm
  have hB := State.reg_aluToReg_other s f (s.reg aLo) (s.reg bLo) hb.symm
  refine ⟨_, _, (s.aluToReg f dLo (s.reg aLo) (s.reg bLo)).draws, rfl, execAll_two (exec_aluRR ..) (exec_aluRR ..),
    ?_, ?_, ?_⟩
  · rw [State.reg_aluToReg_other _ g _ _ hd, State.reg_aluToReg_same, if_neg hLo]
  · rw [State.reg_aluToReg_same, if_neg hHi, hA, hB, State.aluToReg_flags]
  · rw [State.aluToReg_flags, hA, hB, State.aluToReg_flags]

/-- The carry out of a sum is what is left of its total above 16 bits. -/
theorem carryOut_toNat {a b : Word} {cin : Bool} :
    (decide (65536 ≤ a.toNat + b.toNat + cin.toNat)).toNat = (a.toNat + b.toNat + cin.toNat) / 65536 := by
  have hcin := cin.toNat_le
  rw [Bool.toNat, Bool.cond_decide]
  split <;> omega

/-- Two sums of 16 bits, the second of which takes the carry of the first, are one sum of 32 bits (R353). -/
theorem execAll_sum_sumWithCarry {f g : AluOp} (hf : aluFlagEffect f = .sum) (hg : aluFlagEffect g = .sum)
    (haddend : ∀ w, aluAddend g w = aluAddend f w) (hcarry : ∀ c, aluCarryIn g c = c) {dLo aLo bLo dHi aHi bHi : Reg}
    (s : State) (hLo : dLo ≠ zeroReg) (hHi : dHi ≠ zeroReg) (hd : dLo ≠ dHi) (ha : dLo ≠ aHi) (hb : dLo ≠ bHi)
    {total : Nat}
    (htotal : total = (s.reg aHi ++ s.reg aLo).toNat + (aluAddend f (s.reg bHi) ++ aluAddend f (s.reg bLo)).toNat +
      (aluCarryIn f s.flags.c).toNat) :
    ∃ t, execAll [.aluRR f dLo aLo bLo, .aluRR g dHi aHi bHi] s = .next t ∧
      (t.reg dHi ++ t.reg dLo).toNat = total % 4294967296 ∧ t.flags.c = decide (4294967296 ≤ total) := by
  obtain ⟨t, F, d, hF, hexec, hlow, hhigh, hflags⟩ := execAll_aluRR_aluRR f g s hLo hHi hd ha hb
  have hlowCarry : F.c.toNat = aluTotal f (s.reg aLo) (s.reg bLo) s.flags.c / 65536 := by
    rw [hF, aluFlags_of_sum _ _ _ _ hf]
    exact carryOut_toNat
  have hhighTotal : aluTotal g (s.reg aHi) (s.reg bHi) F.c =
      (s.reg aHi).toNat + (aluAddend f (s.reg bHi)).toNat + aluTotal f (s.reg aLo) (s.reg bLo) s.flags.c / 65536 := by
    rw [aluTotal, haddend, hcarry, hlowCarry]
  have hparts : total = aluTotal f (s.reg aLo) (s.reg bLo) s.flags.c +
      65536 * ((s.reg aHi).toNat + (aluAddend f (s.reg bHi)).toNat) := by
    rw [htotal, append_toNat, append_toNat, aluTotal]
    omega
  refine ⟨t, hexec, ?_, ?_⟩
  · rw [append_toNat, hlow, hhigh, aluResult_of_sum _ _ _ hf, aluResult_of_sum _ _ _ hg, hhighTotal]
    omega
  · rw [hflags, aluFlags_of_sum _ _ _ _ hg, hhighTotal, decide_eq_decide]
    omega

/-- Settles O21: the 32-bit sum with no carry in. -/
theorem thirtyTwoBitAddition : Obligations.ThirtyTwoBitAddition := by
  intro s dLo aLo bLo dHi aHi bHi hLo hHi hd ha hb
  obtain ⟨t, hexec, hresult, hcarry⟩ := execAll_sum_sumWithCarry (f := .add) (g := .addc) rfl rfl (fun _ => rfl)
    (fun _ => rfl) s hLo hHi hd ha hb rfl
  exact ⟨t, hexec, BitVec.eq_of_toNat_eq (hresult.trans (BitVec.toNat_add ..).symm), hcarry⟩

/-- Settles O22: the 32-bit sum of the first number, the complement of the second, and 1. -/
theorem thirtyTwoBitSubtraction : Obligations.ThirtyTwoBitSubtraction := by
  intro s dLo aLo bLo dHi aHi bHi hLo hHi hd ha hb
  have hnot : (~~~s.reg bHi ++ ~~~s.reg bLo).toNat = 4294967295 - (s.reg bHi ++ s.reg bLo).toNat := by
    rw [← BitVec.not_append, BitVec.toNat_not]
  have hb32 := (s.reg bHi ++ s.reg bLo).isLt
  have htotal : (s.reg aHi ++ s.reg aLo).toNat + 4294967296 - (s.reg bHi ++ s.reg bLo).toNat =
      (s.reg aHi ++ s.reg aLo).toNat + (~~~s.reg bHi ++ ~~~s.reg bLo).toNat + 1 := by
    omega
  obtain ⟨t, hexec, hresult, hcarry⟩ := execAll_sum_sumWithCarry (f := .sub) (g := .subb) rfl rfl (fun _ => rfl)
    (fun _ => rfl) s hLo hHi hd ha hb htotal
  refine ⟨t, hexec, BitVec.eq_of_toNat_eq ?_, ?_⟩
  · rw [hresult, BitVec.toNat_sub]
    omega
  · rw [hcarry, decide_eq_decide]
    omega

/-! ## `mov` (R107, R175) -/

/-- Of two writes to the same address only the second is seen, also in the list of cells. -/
theorem Memory.write_write_same {w : Nat} (m : Memory w) (a : Nat) (u v : BitVec w) :
    (m.write a u).write a v = m.write a v := by
  induction m with
  | nil => simp [Memory.write]
  | cons c rest ih =>
    obtain ⟨k, x⟩ := c
    rcases lt_trichotomy a k with h | h | h
    · simp [Memory.write, h]
    · simp [Memory.write, h]
    · simp [Memory.write, h.not_gt, h.ne, ih]

theorem State.setRam_setRam_same (s : State) (a u v : Word) : (s.setRam a u).setRam a v = s.setRam a v := by
  simp only [State.setRam, Memory.write_write_same]

theorem writeReg_writeReg_same (regs : Vector Word 16) (r : Reg) (u v : Word) :
    writeReg (writeReg regs r u) r v = writeReg regs r v := by
  unfold writeReg
  split
  · rfl
  · exact Vector.set_set ..

theorem State.setReg_setReg_same (s : State) (r : Reg) (u v : Word) : (s.setReg r u).setReg r v = s.setReg r v := by
  simp only [State.setReg, writeReg_writeReg_same]

/-- A store by `mov` leaves the same state whatever word lay at its address. -/
theorem State.movToRam_setRam (s : State) (ea u v : Word) : (s.setRam ea u).movToRam ea v = s.movToRam ea v := by
  rw [State.movToRam, State.movToRam, State.setRam_setRam_same]

/-- A load by `mov` leaves the same state whatever its destination held. -/
theorem State.movToReg_setReg (s : State) (rD : Reg) (u v : Word) : (s.setReg rD u).movToReg rD v = s.movToReg rD v := by
  rw [State.movToReg, State.movToReg, State.setReg_setReg_same]

/-- The guard of a memory access looks at the address map only. -/
theorem State.onStorage_congr {s t : State} (h : t.ramMap = s.ramMap) (a : Word) (k : Outcome) :
    t.onStorage a k = s.onStorage a k := by
  simp only [State.onStorage, State.ramKind, h]

/-- A guarded store by `mov` answers the same whatever word lay at its address. -/
theorem State.onStorage_movToRam_setRam (s : State) (ea u v : Word) :
    (s.setRam ea u).onStorage ea (.next ((s.setRam ea u).movToRam ea v)) = s.onStorage ea (.next (s.movToRam ea v)) := by
  rw [State.movToRam_setRam]
  exact State.onStorage_congr rfl ..

theorem exec_movRX (rD rA : Reg) (imm : Word) (s : State) :
    exec (.movRX rD rA imm) s =
      s.onStorage (s.indexed rA imm) (.next (s.movToReg rD (s.ramWord (s.indexed rA imm)))) := rfl

/-- Settles O23: address and second operand are words of registers, and the word or register overwritten is one that `mov`
writes last. -/
theorem movReadsNoFirstOperand : Obligations.MovReadsNoFirstOperand := by
  refine ⟨fun s addr v rA => State.onStorage_movToRam_setRam .., fun s v rA rB => State.onStorage_movToRam_setRam ..,
    fun s imm v rA rB => State.onStorage_movToRam_setRam .., fun s imm v rD rA h => ?_⟩
  have haddr : (s.setReg rD v).indexed rA imm = s.indexed rA imm :=
    congrArg (· + imm) (State.reg_setReg_other s v h.symm)
  rw [exec_movRX, exec_movRX, haddr, State.ramWord_setReg, State.movToReg_setReg]
  exact State.onStorage_congr rfl ..

end Sys2Proof.Machine
end

section
/-! PROOF. The statements of the family "register destination" (40_alu_register_dest.md of the spec) about macros (R160 to
R168). Where macros have an OPERAND, their ALU instruction is the ALU operation on its value, whatever its form
(`exec_aluWith`). -/

namespace Sys2Proof.Machine

/-! ## Expansions -/

/-- In each format that fits the operand, `ALU rD, rA, OPERAND` is the ALU operation on `rA` and the operand's value: the
indexed format takes `rD` as first operand, and fits only where that is `rA` (R105; log 28). -/
theorem exec_aluWith {f : AluOp} {rD rA : Reg} {b : Operand} {i : Instr} {s : State}
    (hi : aluWith f rD rA b = some i) (hb : b.Readable s) :
    exec i s = .next (s.aluToReg f rD (s.reg rA) (b.value s)) := by
  cases b with
  | reg rB =>
    cases hi
    exact exec_aluRR f rD rA rB s
  | imm imm =>
    cases hi
    exact exec_aluRI f rD rA imm s
  | direct addr =>
    cases hi
    exact (exec_aluRD f rD rA addr s).trans (State.onStorage_storage (hb _ rfl))
  | indirect rB =>
    cases hi
    exact (exec_aluRN f rD rA rB s).trans (State.onStorage_storage (hb _ rfl))
  | indexed r imm =>
    obtain ⟨rfl, rfl⟩ : rA = rD ∧ Instr.aluRX f rD r imm = i := by
      simpa [aluWith] using hi
    exact (exec_aluRX f rA r imm s).trans (State.onStorage_storage (hb _ rfl))

theorem aluWith_of_aluWithoutIndexed {f : AluOp} {rD rA : Reg} {b : Operand} {i : Instr}
    (h : aluWithoutIndexed f rD rA b = some i) : aluWith f rD rA b = some i := by
  cases b with
  | indexed => cases h
  | _ => exact h

/-- Macros that are one ALU instruction without indexed form do that ALU operation (R163 to R165). -/
theorem execAll_aluWithoutIndexed {f : AluOp} {rD rA : Reg} {b : Operand} {is : List Instr} {s : State}
    (hexpand : (aluWithoutIndexed f rD rA b).map ([·]) = some is) (hb : b.Readable s) :
    execAll is s = .next (s.aluToReg f rD (s.reg rA) (b.value s)) := by
  obtain ⟨i, hi, rfl⟩ := Option.map_eq_some_iff.1 hexpand
  exact execAll_one (exec_aluWith (aluWith_of_aluWithoutIndexed hi) hb)

/-- Every operand has a format where the first operand is the destination (R91). -/
theorem exists_aluWith_self (f : AluOp) (r : Reg) (b : Operand) : ∃ i, aluWith f r r b = some i := by
  cases b with
  | indexed => exact ⟨_, if_pos rfl⟩
  | _ => exact ⟨_, rfl⟩

/-! ## Comparison (R164, R287) -/

/-- The flags of `a - b` order `a` and `b`: no borrow is "unsigned at least", and the sign of the result, corrected by `V`, is
"signed less" (R261). -/
theorem comparesAs_sub (a b : Word) (F : Flags) (d : Nat) : ComparesAs (aluFlags .sub a b F d) a b := by
  have harith := subtractionIsArithmetic a b F d .sub (.inl rfl)
  simp only [reduceCtorEq, false_and, if_false, Int.natCast_zero, Int.sub_zero, Nat.add_zero] at harith
  obtain ⟨hresult, hflags⟩ := harith
  have ha := a.isLt
  have hb := b.isLt
  have hzero : (aluResult .sub a b F.c).toNat = 0 ↔ a = b := by
    rw [BitVec.toNat_eq]
    omega
  have hsigned : ((decide ((aluResult .sub a b F.c).toInt < 0)) !=
      decide (a.toInt - b.toInt < -32768 ∨ 32767 < a.toInt - b.toInt)) = true ↔ a.toInt < b.toInt := by
    simp only [word_toInt, bne_iff_ne, ne_eq, decide_eq_decide]
    omega
  have hle : a.toInt ≤ b.toInt ↔ a = b ∨ a.toInt < b.toInt := by
    rw [← BitVec.toInt_inj]
    omega
  have hleu : a.toNat ≤ b.toNat ↔ a.toNat < b.toNat ∨ a = b := by
    rw [BitVec.toNat_eq]
    omega
  rw [hflags]
  constructor <;> simp only [condHolds, Bool.or_eq_true, Bool.not_eq_true', decide_eq_true_eq, decide_eq_false_iff_not,
    hzero, hsigned, hle, hleu, not_le]

/-- Settles O39: `cmp` is a subtraction into register 0, so it leaves its flags and no register. -/
theorem compareContract : Obligations.CompareContract := by
  intro space pc rA b is s hexpand hb
  exact ⟨_, execAll_aluWithoutIndexed (f := .sub) (rD := zeroReg) hexpand hb, comparesAs_sub _ _ _ s.draws,
    State.aluToReg_zeroReg_regs ..⟩

/-! ## Complements (R160, R161) -/

theorem word_beq_zero_eq_decide (r : Word) : (r == 0) = decide (r = 0) := rfl

/-- `not rD, rA` writes the complement and has its `Z` and `S`. -/
theorem exec_notInstr (rD rA : Reg) (s : State) :
    ∃ t, exec (notInstr rD rA) s = .next t ∧ t.reg rD = (if rD = zeroReg then 0 else ~~~(s.reg rA)) ∧
      t.flags.z = decide (~~~(s.reg rA) = 0) ∧ t.flags.s = (~~~(s.reg rA)).msb := by
  have hnot : aluResult .xor (s.reg rA) 0xFFFF s.flags.c = ~~~(s.reg rA) := BitVec.xor_allOnes
  refine ⟨_, exec_aluRI .xor rD rA 0xFFFF s, ?_, ?_⟩
  · rw [State.reg_aluToReg_same, hnot]
  · rw [State.aluToReg_flags, aluFlags_of_logic _ _ _ _ rfl, hnot]
    exact ⟨rfl, rfl⟩

/-- An ALU operation into `rD` and then `not rD, rD` leave the complement of the result, with its `Z` and `S`. -/
theorem execAll_aluWith_not {f : AluOp} {rD rA : Reg} {b : Operand} {is : List Instr} {s : State}
    (hexpand : (aluWith f rD rA b).map ([·, notInstr rD rD]) = some is) (hD : rD ≠ zeroReg) (hb : b.Readable s) :
    ∃ t, execAll is s = .next t ∧ t.reg rD = ~~~(aluResult f (s.reg rA) (b.value s) s.flags.c) ∧
      t.flags.z = decide (~~~(aluResult f (s.reg rA) (b.value s) s.flags.c) = 0) ∧
      t.flags.s = (~~~(aluResult f (s.reg rA) (b.value s) s.flags.c)).msb := by
  obtain ⟨i, hi, rfl⟩ := Option.map_eq_some_iff.1 hexpand
  obtain ⟨t, hexec, hreg, hflags⟩ := exec_notInstr rD rD (s.aluToReg f rD (s.reg rA) (b.value s))
  rw [State.reg_aluToReg_same, if_neg hD] at hreg hflags
  rw [if_neg hD] at hreg
  exact ⟨t, execAll_two (exec_aluWith hi hb) hexec, hreg, hflags⟩

/-- Settles O54: `not` is `xor` with all ones, and the others are `and`, `or`, `xor` and then `not`. -/
theorem complementMacros : Obligations.ComplementMacros := by
  refine ⟨fun space pc rD rA s => ?_, fun space pc rD rA b s is M r hD hb hM hexpand => ?_⟩
  · obtain ⟨t, hexec, hresult⟩ := exec_notInstr rD rA s
    exact ⟨_, t, rfl, execAll_one hexec, hresult⟩
  · obtain ⟨rfl, rfl⟩ | ⟨rfl, rfl⟩ | ⟨rfl, rfl⟩ := hM
    · exact execAll_aluWith_not (f := .and) hexpand hD hb
    · exact execAll_aluWith_not (f := .or) hexpand hD hb
    · exact execAll_aluWith_not (f := .xor) hexpand hD hb

/-! ## `sllc` (R162) -/

theorem aluTotal_addc (a b : Word) (c : Bool) : aluTotal .addc a b c = a.toNat + b.toNat + c.toNat := rfl

/-- Bit 0 of a word shifted left by one is free for the carry. -/
theorem shiftLeft_one_or_carry_toNat (a : Word) (c : Bool) :
    ((a <<< 1) ||| (BitVec.ofBool c).setWidth 16).toNat = (a.toNat + a.toNat + c.toNat) % 65536 := by
  have hcarry : ((BitVec.ofBool c).setWidth 16).toNat = c.toNat := by
    cases c <;> rfl
  have hdisjoint : (a <<< 1) &&& (BitVec.ofBool c).setWidth 16 = 0#16 := by
    ext k hk
    cases k with
    | zero => simp
    | succ k => simp
  rw [← BitVec.add_eq_or_of_and_eq_zero _ _ hdisjoint, BitVec.toNat_add, BitVec.toNat_shiftLeft, hcarry, Nat.shiftLeft_eq]
  omega

/-- Settles O55: `rA + rA + C` is `rA` shifted left with the carry below it, and reaches 2^16 exactly where bit 15 of `rA` is
set. -/
theorem shiftLeftWithCarry : Obligations.ShiftLeftWithCarry := by
  intro space pc rD rA s
  have hresult : aluResult .addc (s.reg rA) (s.reg rA) s.flags.c =
      (s.reg rA <<< 1) ||| (BitVec.ofBool s.flags.c).setWidth 16 := by
    apply BitVec.eq_of_toNat_eq
    rw [aluResult_of_sum _ _ _ rfl, shiftLeft_one_or_carry_toNat]
    rfl
  refine ⟨_, _, rfl, execAll_one (exec_aluRR .addc rD rA rA s), ?_, ?_⟩
  · rw [State.reg_aluToReg_same, hresult]
    rfl
  · have hcin := s.flags.c.toNat_le
    rw [State.aluToReg_flags, aluFlags_of_sum _ _ _ _ rfl, word_msb, decide_eq_decide, aluTotal_addc]
    omega

/-! ## Flag macros (R163, R166, R167) -/

theorem aluTotal_add (a b : Word) (c : Bool) : aluTotal .add a b c = a.toNat + b.toNat := rfl

theorem aluSignedTotal_add (a b : Word) (c : Bool) : aluSignedTotal .add a b c = a.toInt + b.toInt := by
  rw [aluSignedTotal]
  exact Int.add_zero _

theorem aluResult_zero_add (v : Word) (c : Bool) : aluResult .add 0 v c = v := by
  apply BitVec.eq_of_toNat_eq
  rw [aluResult_of_sum _ _ _ rfl]
  exact (congrArg (· % 65536) (Nat.zero_add _)).trans (Nat.mod_eq_of_lt v.isLt)

/-- `0 + v` has no carry and no overflow. -/
theorem aluFlags_zero_add (v : Word) (F : Flags) (d : Nat) :
    aluFlags .add 0 v F d = ⟨decide (v = 0), false, false, v.msb⟩ := by
  have hv := v.isLt
  have hcarry : ¬ 65536 ≤ aluTotal .add 0 v F.c := by
    rw [aluTotal_add, BitVec.ofNat_eq_ofNat, BitVec.toNat_zero]
    omega
  have hoverflow : ¬ (aluSignedTotal .add 0 v F.c < -32768 ∨ 32767 < aluSignedTotal .add 0 v F.c) := by
    rw [aluSignedTotal_add, BitVec.ofNat_eq_ofNat, BitVec.toInt_zero, word_toInt]
    omega
  rw [aluFlags_of_sum _ _ _ _ rfl, aluResult_zero_add, decide_eq_false hcarry, decide_eq_false hoverflow,
    ← word_beq_zero, word_beq_zero_eq_decide, BitVec.msb_eq_toInt]

/-- Settles O56: `movf` and `test` add the operand to 0 into `rD` and into register 0, "Clear flags" adds 1 to 0. -/
theorem flagMacros : Obligations.FlagMacros := by
  refine ⟨fun space pc rD b s is hexpand hb => ?_, fun space pc b s hb => ?_, fun space pc s => ?_⟩
  · refine ⟨_, execAll_aluWithoutIndexed (f := .add) (rD := rD) (rA := zeroReg) hexpand hb, ?_, ?_⟩
    · rw [State.reg_aluToReg_same, State.reg_zeroReg, aluResult_zero_add]
    · exact aluFlags_zero_add _ _ s.draws
  · obtain ⟨i, hi⟩ := exists_aluWith_self .add zeroReg b
    exact ⟨[i], _, congrArg (Option.map ([·])) hi, execAll_one (exec_aluWith hi hb), State.aluToReg_zeroReg_regs ..,
      aluFlags_zero_add _ _ s.draws⟩
  · exact ⟨_, _, rfl, execAll_one (exec_aluRI .add zeroReg zeroReg 1 s), State.aluToReg_zeroReg_regs ..,
      aluFlags_zero_add _ _ s.draws⟩

/-! ## `nop` (R168) -/

/-- Settles O57: a `mov` into register 0 writes nothing, and the rest is evaluation. -/
theorem nopRule : Obligations.NopRule := by
  intro space pc s
  have hmov : s.movToReg zeroReg 0 = { s with pc := s.pc + s.instrSize } := by
    rw [State.movToReg, State.setReg_zeroReg]
    rfl
  exact ⟨rfl, rfl, rfl, congrArg Host.Outcome.next hmov, rfl⟩

end Sys2Proof.Machine
end

section
/-! PROOF. The statement of the family "shifts" (42_shifts.md of the spec) about the amount 0. -/

namespace Sys2Proof.Machine

theorem State.advance_eq (s : State) : s.advance = { s with pc := s.pc + s.instrSize } := rfl

/-- A shift of any kind by 0 completes and only goes on to the next instruction (R214). -/
theorem exec_shift_zero (t : ShiftOp) (rD rA : Reg) (s : State) :
    exec (.shift t rD rA 0) s = .next { s with pc := s.pc + s.instrSize } := by
  rw [exec_shift, State.shift_zero, State.advance_eq]

/-- Settles O25: the three kinds of shift, each by the amount 0. -/
theorem shiftByZero : Obligations.ShiftByZero := fun s rD rA =>
  ⟨exec_shift_zero .sll rD rA s, exec_shift_zero .srl rD rA s, exec_shift_zero .sra rD rA s⟩

end Sys2Proof.Machine
end

section
/-! PROOF. The statements of the family "`movb`, `swap`, `peek`" (43_movb_swap_peek.md of the spec), and of `lbu`, which is
built on `movb`. -/

namespace Sys2Proof.Machine

/-! ## Indexed addresses (R43) -/

/-- With `zero` as base register the address is the immediate (R21, R43). -/
theorem State.indexed_zeroReg (s : State) (imm : Word) : s.indexed zeroReg imm = imm := BitVec.zero_add imm

/-! ## Bytes (R220) -/

theorem lowByte_toNat (w : Word) : (w.extractLsb' 0 8).toNat = w.toNat % 256 := by
  rw [BitVec.extractLsb'_toNat, Nat.shiftRight_zero]

/-- Sign extension keeps the signed value of the low byte. -/
theorem sext8_toInt (w : Word) :
    (sext8 w).toInt = if w.toNat % 256 < 128 then (w.toNat : Int) % 256 else (w.toNat : Int) % 256 - 256 := by
  rw [sext8, BitVec.toInt_signExtend_of_le (by decide), BitVec.toInt_eq_toNat_cond, lowByte_toNat]
  split <;> split <;> omega

/-- The mask `0x00FF` takes the sign bits away again: what is left is the low byte, zero extended (R229). -/
theorem sext8_and_lowMask_toNat (w : Word) : (sext8 w &&& 0x00FF#16).toNat = w.toNat % 256 := by
  have hlow : (sext8 w).toNat % 256 = w.toNat % 256 := by
    rw [sext8, BitVec.toNat_signExtend, BitVec.toNat_setWidth, lowByte_toNat]
    split <;> omega
  rw [BitVec.toNat_and, ← hlow]
  exact Nat.and_two_pow_sub_one_eq_mod _ 8

/-! ## `movb` (R220) -/

theorem exec_movb {s : State} {rA : Reg} {imm : Word} (rD : Reg) (h : s.ramKind (s.reg rA + imm) = .storage) :
    exec (.movb rD rA imm) s = .next (s.loadByte rD (s.reg rA + imm)) :=
  State.onStorage_storage h

/-- Settles O26: the word loaded is the sign extension of the low byte. -/
theorem movbLoadsSignedByte : Obligations.MovbLoadsSignedByte := by
  intro s rD rA imm h
  refine ⟨_, exec_movb rD h, ?_, State.loadByte_goesOn ..⟩
  rw [State.loadByte_result, apply_ite BitVec.toInt, sext8_toInt]
  rfl

/-! ## `swap` (R230) -/

theorem exec_swap {s : State} {rA : Reg} {imm : Word} (rD : Reg) (h : s.ramKind (s.reg rA + imm) = .storage) :
    exec (.swap rD rA imm) s = .next (s.exchange rD (s.reg rA + imm)) :=
  State.onStorage_storage h

/-- Settles O27: register and word are written from the state before, at the address of the state before, so it does not
matter whether `rD` is `rA`. -/
theorem swapExchanges : Obligations.SwapExchanges := by
  intro s rD rA imm h
  obtain ⟨hreg, hword⟩ := State.exchange_result s rD (s.reg rA + imm)
  exact ⟨_, exec_swap rD h, hreg, hword, State.exchange_goesOn ..⟩

/-! ## `peek` (R232, R234) -/

theorem romHalf_upper_joinWords (op arg : Word) : romHalf (joinWords op arg) .upper = op := opWord_joinWords op arg

theorem romHalf_lower_joinWords (op arg : Word) : romHalf (joinWords op arg) .lower = arg := argWord_joinWords op arg

/-- Of the two constants in word `k / 2` of a table, the half that R234 names is constant `k`. -/
theorem romHalf_joinWords_constant (c : Nat → Word) (k : Nat) :
    romHalf (joinWords (c (2 * (k / 2))) (c (2 * (k / 2) + 1))) (if k % 2 = 0 then .upper else .lower) = c k := by
  obtain hk | hk := Nat.mod_two_eq_zero_or_one k
  · rw [if_pos hk, romHalf_upper_joinWords, Nat.mul_div_cancel' (Nat.dvd_of_mod_eq_zero hk)]
  · rw [if_neg (by omega), romHalf_lower_joinWords, show 2 * (k / 2) + 1 = k by omega]

/-- Settles O28: word `k / 2` of the table is at the address of the `peek`, whose base register is `zero`. -/
theorem peekReadsConstantTable : Obligations.PeekReadsConstantTable := by
  intro s t c words k rD htable hk hD
  have hword : s.romWord (s.indexed zeroReg (t + BitVec.ofNat 16 (k / 2))) =
      some (joinWords (c (2 * (k / 2))) (c (2 * (k / 2) + 1))) := by
    rw [State.indexed_zeroReg]
    exact htable (k / 2) (by omega)
  refine ⟨_, State.peekAt_eq_next.2 ⟨_, hword, rfl⟩, ?_⟩
  rw [State.reg_advance, State.reg_setReg_same, if_neg hD, romHalf_joinWords_constant]

/-! ## `lbu` (R229) -/

/-- Settles O58: `movb` leaves the sign-extended byte in `rD`, where `and` masks it and takes its flags from the result. -/
theorem loadByteUnsigned : Obligations.LoadByteUnsigned := by
  intro space pc rD rA imm s hD h
  have hbyte : (s.loadByte rD (s.reg rA + imm)).reg rD = sext8 (s.ramWord (s.reg rA + imm)) := by
    rw [State.loadByte_result, if_neg hD]
  have hresult : ∀ carry, (aluResult .and ((s.loadByte rD (s.reg rA + imm)).reg rD) 0x00FF carry).toNat =
      (s.ramWord (s.reg rA + imm)).toNat % 256 := fun carry => by
    rw [hbyte]
    exact sext8_and_lowMask_toNat _
  refine ⟨_, _, rfl, execAll_two (exec_movb rD h) (exec_aluRI .and rD rD 0x00FF _), ?_, ?_⟩
  · rw [State.reg_aluToReg_same, if_neg hD, hresult]
  · rw [State.aluToReg_flags, aluFlags_of_logic _ _ _ _ rfl, logicFlags, word_beq_zero, word_msb, hresult]
    exact ⟨rfl, decide_eq_false (by omega)⟩

end Sys2Proof.Machine
end

section
/-! PROOF. The statements of the family "stack" (44_stack.md of the spec). Each instruction completes in the state its
operation gives, and the effect of that state is read off `push` or `pop`; a push followed by a pop is then a composition of
the two effects. -/

namespace Sys2Proof.Machine

/-! ## `push` and `pop` (R240, R241) -/

/-- Settles O29, from the effect and the frame of the operation. -/
theorem pushPrimitive : Obligations.PushPrimitive := fun s v =>
  ⟨State.push_reg_sp s v, State.push_word s v, rfl, rfl, rfl, rfl, State.push_frame s v⟩

/-- Settles O30: only `sp` is written, so the popped word is still in memory. -/
theorem popPrimitive : Obligations.PopPrimitive := fun s =>
  ⟨rfl, State.dropTop_reg_sp s, State.ramWord_setReg .., rfl, rfl, rfl, rfl, State.dropTop_frame s⟩

/-! ## Reserved uses of `sp` (R247, R304) -/

/-- A reserved use of `sp` is refused by its name: its check comes before all others. -/
theorem exec_of_illFormed {i : Instr} {why : IllFormed} (h : i.illFormed? = some why) (s : State) :
    exec i s = .refused (.reservedUseOfSp why) := by
  rw [exec_eq_guarded, guarded, h, refuseReserved]

/-- Settles O33: `Instr.illFormed?` gives each of the five uses its name. -/
theorem reservedUsesOfSp : Obligations.ReservedUsesOfSp := fun s =>
  ⟨exec_of_illFormed rfl s, exec_of_illFormed rfl s, exec_of_illFormed rfl s, exec_of_illFormed rfl s,
    exec_of_illFormed rfl s⟩

/-! ## Pushes (R242 to R244) -/

theorem exec_pushI {s : State} (imm : Word) (h : s.ramKind s.pushAddress = .storage) :
    exec (.pushI imm) s = .next (s.push imm).advance :=
  State.onStorage_storage h

theorem exec_pushR {s : State} {rB : Reg} (hB : rB ≠ spReg) (h : s.ramKind s.pushAddress = .storage) :
    exec (.pushR rB) s = .next (s.push (s.reg rB)).advance :=
  (unlessSp_of_ne hB).trans (State.onStorage_storage h)

theorem exec_pushf {s : State} (h : s.ramKind s.pushAddress = .storage) :
    exec .pushf s = .next ((s.push s.flagsWord).addDraws 1).advance :=
  State.onStorage_storage h

theorem State.push_addDraws_advance_effect (s : State) (v : Word) (n : Nat) :
    PushEffect v n s ((s.push v).addDraws n).advance where
  sp := State.push_reg_sp s v
  pushed := State.push_word s v
  others := ⟨rfl, rfl, rfl, rfl, ((State.push_frame s v).addDraws n).advance⟩

/-- Settles O31: the word `pushf` stores is the FLAGS word, from which the flags read back under every layout. -/
theorem pushInstructions : Obligations.PushInstructions := fun s h =>
  ⟨fun _ hB => ⟨_, exec_pushR hB h, State.push_advance_effect s _⟩,
    fun imm => ⟨_, exec_pushI imm h, State.push_advance_effect s imm⟩,
    ⟨_, s.flagsWord, exec_pushf h, State.push_addDraws_advance_effect s _ 1, wordToFlags_flagsToWord ..⟩⟩

/-! ## Pops (R245, R246) -/

theorem exec_pop {s : State} {rD : Reg} (hD : rD ≠ spReg) (h : s.ramKind s.popAddress = .storage) :
    exec (.pop rD) s = .next (s.dropTop.setReg rD s.popped).advance :=
  (unlessSp_of_ne hD).trans (State.onStorage_storage h)

theorem exec_popf {s : State} (h : s.ramKind s.popAddress = .storage) :
    exec .popf s = .next (s.dropTop.setFlags (wordToFlags Config.flagsLayout s.popped)).advance :=
  State.onStorage_storage h

/-- The destination of a pop is written after `sp`, which stays as the pop left it where the destination is another
register. -/
theorem State.dropTop_setReg_reg_sp (s : State) {rD : Reg} (v : Word) (hD : rD ≠ spReg) :
    (s.dropTop.setReg rD v).reg spReg = s.reg spReg + 1 := by
  rw [State.reg_setReg_other _ v hD.symm, State.dropTop_reg_sp]

theorem State.dropTop_setReg_frame (s : State) (rD : Reg) (v : Word) :
    SameBut [spReg, rD] [] s (s.dropTop.setReg rD v) :=
  ((State.dropTop_frame s).mono (by simp) (by simp)).setReg v (by simp)

/-- Settles O32: `pop` writes its destination and `popf` the flags from the word at the old `sp`. -/
theorem popInstructions : Obligations.PopInstructions := by
  refine fun s h => ⟨fun rD hD => ⟨_, exec_pop hD h, ?_, State.dropTop_setReg_reg_sp s _ hD, ?_⟩,
    ⟨_, exec_popf h, State.dropTop_reg_sp s, ?_⟩⟩
  · rw [State.reg_advance, State.reg_setReg_same, State.popped]
  · exact ⟨rfl, rfl, rfl, rfl, (State.dropTop_setReg_frame s rD _).advance⟩
  · exact ⟨rfl, rfl, rfl, rfl, ((State.dropTop_frame s).setFlags _).advance⟩

/-! ## A push and a pop -/

/-- A register that ends as it began need not be listed among those that may differ. -/
theorem SameBut.of_restored {r : Reg} {rs : List Reg} {as : List Word} {s t : State} (h : SameBut (r :: rs) as s t)
    (hr : t.reg r = s.reg r) : SameBut rs as s t :=
  { h with
    regs := fun q hq => by
      obtain rfl | hne := eq_or_ne q r
      · exact hr
      · exact h.regs q (List.not_mem_cons_of_ne_of_not_mem hne hq) }

theorem State.instrSize_congr {s t : State} (h : t.ms = s.ms) : t.instrSize = s.instrSize := by
  rw [State.instrSize, State.instrSize, h]

/-- Settles O34: the pop finds `sp` at the word that the push stored, takes that word, and puts `sp` back. -/
theorem pushThenPop : Obligations.PushThenPop := by
  intro s rB rD hB hD h
  obtain ⟨hpush, -, -⟩ := pushInstructions s h
  obtain ⟨t, ht, ⟨hsp, hword, hpc, hflags, hms, hdraws, hframe⟩⟩ := hpush rB hB
  have htop : t.popAddress = s.pushAddress := hsp
  have hkind : t.ramKind t.popAddress = .storage := by
    rw [htop, State.ramKind, hframe.ramMap]
    exact h
  obtain ⟨hpop, -⟩ := popInstructions t hkind
  obtain ⟨u, hu, hreg, hsp', hpc', hflags', hms', hdraws', hframe'⟩ := hpop rD hD
  have hback : u.reg spReg = s.reg spReg := by
    rw [hsp', hsp]
    exact BitVec.sub_add_cancel ..
  refine ⟨u, execAll_two ht hu, ?_, hback, ?_, hflags'.trans hflags, hms'.trans hms, hdraws'.trans hdraws, ?_⟩
  · rw [hreg, htop, hword]
  · rw [hpc', hpc, State.instrSize_congr hms]
  · exact ((hframe.mono (by simp) (by simp)).trans (hframe'.mono (by simp) (by simp))).of_restored hback

end Sys2Proof.Machine
end

section
/-! PROOF. The statements of the family "jumps" (45_jumps.md of the spec). The sixteen jumps are one operation on the state,
`State.jump`; the spec's words about it are read off that operation, its condition and its two targets. -/

namespace Sys2Proof.Machine

/-! ## The sixteen jumps are one operation (R260, R262, R263) -/

theorem exec_jumpR (c : Cond) (rA : Reg) (s : State) : exec (.jumpR c rA) s = .next (s.jump c (s.reg rA)) := by
  cases c <;> rfl

theorem exec_jumpI (c : Cond) (addr : Word) (s : State) : exec (.jumpI c addr) s = .next (s.jump c addr) := by
  cases c <;> rfl

/-- A jump writes `pc` and nothing else, with the target or the address of the next instruction (R260). -/
theorem State.jump_eq_update (s : State) (c : Cond) (target : Word) :
    s.jump c target = { s with pc := if condHolds c s.flags then target else s.pc + s.instrSize } := rfl

theorem cycles_jumpR (c : Cond) (rA : Reg) : cycles (.jumpR c rA) = 2 := by
  cases c <;> rfl

theorem cycles_jumpI (c : Cond) (addr : Word) : cycles (.jumpI c addr) = 2 := by
  cases c <;> rfl

/-- Settles O38: every jump is `State.jump`, which is the stated state by definition; each condition is its formula over the
flags, read connective by connective. -/
theorem jumpRule : Obligations.JumpRule := by
  refine ⟨fun c s rA addr => ⟨exec_jumpR c rA s, exec_jumpI c addr s, cycles_jumpR c rA, cycles_jumpI c addr⟩,
    fun F => ?_⟩
  simp only [condHolds, Bool.not_eq_true', bne_iff_ne, Bool.or_eq_true, and_self]

/-! ## A jump to itself (R289, R358) -/

theorem State.jump_to_pc (s : State) : s.jump .jmp s.pc = s := rfl

/-- A machine whose step leaves a state as it is stays in that state for ever. -/
theorem run_eq_of_step_eq (M : Host.Core) {s : M.State} (h : M.step s = .next s) (n : Nat) : M.run n s = .next s := by
  induction n with
  | zero => rfl
  | succ n ih => rw [run_succ_next M h, ih]

/-- Settles O40: one step is the jump to `pc`, which leaves the state as it is. -/
theorem jumpToItself : Obligations.JumpToItself := by
  rintro s ⟨op, hholds, hdecode⟩
  have hstep : step s = .next s := calc
    step s = exec (.jumpI .jmp s.pc) s := stepWith_of_holds hholds hdecode
    _ = .next (s.jump .jmp s.pc) := exec_jumpI .jmp s.pc s
    _ = .next s := by rw [State.jump_to_pc]
  exact run_eq_of_step_eq Sys2Proof.core hstep

/-! ## `skip(N)` (R285, R286) -/

/-- Each of the `N + 1` instructions from the jump to the target takes one slot of the space the code is in. -/
theorem skipTarget_eq (s : State) (n : Word) : skipTarget s.ms s.pc n = s.pc + (n + 1) * s.instrSize := by
  cases hms : s.ms with
  | rom => rw [State.instrSize_rom hms, skipTarget, mul_one, add_assoc]
  | ram => rw [State.instrSize_ram hms, skipTarget, mul_comm]

/-- Settles O59: the macro is one jump in immediate form, to `skipTarget`. -/
theorem skipJumps : Obligations.SkipJumps := by
  intro c n s
  refine ⟨[.jumpI c (skipTarget s.ms s.pc n)], rfl, ?_⟩
  rw [execAll_one (exec_jumpI c _ s), State.jump_eq_update, skipTarget_eq]

end Sys2Proof.Machine
end

section
/-! PROOF. The statements of the family "calls and returns" (46_call_return.md of the spec). The six calls are one operation
on the state, `State.callTo`, and the three returns another, `State.returnTo`; a pair of them that uses one stack word is
their composition, whichever instructions they belong to. -/

namespace Sys2Proof.Machine

/-! ## One call and one return (R290, R297 to R299) -/

/-- An instruction whose meaning is a call has the effect of a call where the new top of the stack is storage. -/
theorem callEffect_of_exec_eq_callTo {i : Instr} {s : State} {target : Word} {space : MemSpace}
    (hexec : exec i s = s.callTo target space) (h : s.ramKind s.pushAddress = .storage) :
    ∃ t, exec i s = .next t ∧ CallEffect target space s t :=
  ⟨_, hexec.trans (State.onStorage_storage h), State.callTo_effect s target space⟩

/-- A return has its effect where the top of the stack is storage. -/
theorem State.returnTo_completes {s : State} (space : MemSpace) (h : s.ramKind s.popAddress = .storage) :
    ∃ t, s.returnTo space = .next t ∧ ReturnEffect space s t :=
  ⟨_, State.onStorage_storage h, State.returnTo_effect s space⟩

/-- Settles O41: every call is `State.callTo`, the register forms because their operand is not `sp`. -/
theorem callRule : Obligations.CallRule := by
  refine ⟨fun s h => ⟨fun rA hA => ?_, fun addr => ?_⟩, fun _ _ => ⟨rfl, rfl, rfl, rfl, rfl, rfl⟩⟩
  · exact ⟨callEffect_of_exec_eq_callTo (unlessSp_of_ne hA) h, callEffect_of_exec_eq_callTo (unlessSp_of_ne hA) h,
      callEffect_of_exec_eq_callTo (unlessSp_of_ne hA) h⟩
  · exact ⟨callEffect_of_exec_eq_callTo rfl h, callEffect_of_exec_eq_callTo rfl h, callEffect_of_exec_eq_callTo rfl h⟩

/-- Settles O42: every return is `State.returnTo`. -/
theorem returnRule : Obligations.ReturnRule := fun s h =>
  ⟨State.returnTo_completes s.ms h, State.returnTo_completes .ram h, State.returnTo_completes .rom h⟩

/-! ## A call and its return (R302) -/

/-- Both forms of a call that completes are one call, to the immediate or to the value of the register. -/
theorem callTo_of_exec {immediate : Word → Instr} {register : Reg → Instr} {why : IllFormed} {call : Instr}
    {s t : State} {target : Word} {space : MemSpace} (himm : ∀ a, exec (immediate a) s = s.callTo a space)
    (hreg : ∀ r, exec (register r) s = unlessSp r why (s.callTo (s.reg r) space))
    (hform : call = immediate target ∨ ∃ rA, call = register rA ∧ target = s.reg rA) (h : exec call s = .next t) :
    s.callTo target space = .next t := by
  obtain rfl | ⟨rA, rfl, rfl⟩ := hform
  · rwa [himm] at h
  · rw [hreg] at h
    exact (unlessSp_eq_next.1 h).2

/-- A return from a state with `sp` at the return address of a call, that word untouched and the same address map, goes to
the instruction after the call with the caller's `sp`. -/
theorem CallEffect.returnTo {s t u : State} {target : Word} {callee : MemSpace} (hcall : CallEffect target callee s t)
    (caller : MemSpace) (hstorage : s.ramKind s.pushAddress = .storage) (hsp : u.reg spReg = t.reg spReg)
    (hword : u.ramWord t.popAddress = t.ramWord t.popAddress) (hmap : u.ramMap = t.ramMap) :
    ∃ v, u.returnTo caller = .next v ∧ v.pc = s.pc + s.instrSize ∧ v.ms = caller ∧ v.reg spReg = s.reg spReg := by
  have htop : t.popAddress = s.pushAddress := hcall.sp
  have htop' : u.popAddress = s.pushAddress := hsp.trans htop
  have hreturn : u.ramWord u.popAddress = s.pc + s.instrSize := by
    rw [htop, hcall.pushed] at hword
    rw [htop', hword]
  have hkind : u.ramKind u.popAddress = .storage := by
    rw [htop', State.ramKind, hmap, hcall.others.frame.ramMap]
    exact hstorage
  obtain ⟨v, hv, hreturned⟩ := State.returnTo_completes caller hkind
  refine ⟨v, hv, hreturned.others.pc.trans hreturn, hreturned.others.ms, ?_⟩
  rw [hreturned.sp, hsp, hcall.sp]
  exact BitVec.sub_add_cancel ..

/-- Settles O43: in each of the five pairs the call goes to the callee's memory space and the return to the caller's. -/
theorem matchedCallAndReturn : Obligations.MatchedCallAndReturn := by
  intro call back s t u target plain system entering hpair hcall
  have hplain (h : plain) : s.callTo target s.ms = .next t :=
    callTo_of_exec (fun _ => rfl) (fun _ => rfl) h hcall
  have hsystem (h : system) : s.callTo target .rom = .next t :=
    callTo_of_exec (fun _ => rfl) (fun _ => rfl) h hcall
  have hentering (h : entering) : s.callTo target .ram = .next t :=
    callTo_of_exec (fun _ => rfl) (fun _ => rfl) h hcall
  have hret (h : u.ms = s.ms) : exec .ret u = u.returnTo s.ms := congrArg u.returnTo h
  have hspaces : s.callTo target u.ms = .next t ∧ exec back u = u.returnTo s.ms := by
    obtain ⟨hs, hu, h | h, rfl⟩ | ⟨hs, hu, h | h, rfl⟩ | ⟨hs, hu, h, rfl⟩ | ⟨hs, hu, h, rfl⟩ := hpair
    · exact ⟨(hu.trans hs.symm) ▸ hplain h, hret (hu.trans hs.symm)⟩
    · exact ⟨hu ▸ hsystem h, hret (hu.trans hs.symm)⟩
    · exact ⟨(hu.trans hs.symm) ▸ hplain h, hret (hu.trans hs.symm)⟩
    · exact ⟨hu ▸ hentering h, hret (hu.trans hs.symm)⟩
    · exact ⟨hu ▸ hsystem h, hs ▸ rfl⟩
    · exact ⟨hu ▸ hentering h, hs ▸ rfl⟩
  obtain ⟨hto, hback⟩ := hspaces
  obtain ⟨hstorage, rfl⟩ := State.callTo_eq_next.1 hto
  refine ⟨rfl, rfl, fun hsp hword hmap => ?_⟩
  rw [hback]
  exact (State.callTo_effect s target u.ms).returnTo s.ms hstorage hsp hword hmap

end Sys2Proof.Machine
end
